-- ==== Sys2Proof/Word.lean ====
section
/-! DEFINITION. The word types of the block. All registers and operands are unsigned (00_scope.md R8). -/

namespace Sys2Proof

/-- A sample, a duty value or a PWM count: SAMPLE_BITS = PWM_BITS = 8 (00_scope.md R6). -/
abbrev Byte := BitVec 8

/-- The operation-select word OPW (30_encoding.md R70). -/
abbrev Opw := BitVec 16

/-- The event record EVT (30_encoding.md R75). -/
abbrev Evt := BitVec 64

/-- A byte offset into the audio resource, or its length: CURSOR_BITS = 32 (10_state.md R23, R24). -/
abbrev Offset := BitVec 32

/-- A millisecond timestamp: TS_BITS = 32 (10_state.md R28). -/
abbrev Millis := BitVec 32

/-- A native analog sample: ADC_BITS = 12 (00_scope.md R6). -/
abbrev AdcSample := BitVec 12

/-- The fixed-point tone phase: PHASE_BITS = 8 (10_state.md R32). -/
abbrev Phase := BitVec 8

end Sys2Proof
end

