-- ==== Sys2Proof/Config.lean ====
section
/-! DEFINITION. The implementation parameters of 00_scope.md R6 that have a value, their derived constants, and the
free values. The parameters R6 calls model arguments are data of State (Machine/State.lean): Cfg, Straps, Params. -/

namespace Sys2Proof.Config

/-- CARRIER_HZ: nominal carrier frequency and sample rate. -/
def carrierHz : Nat := 40000

/-- TICK_PERIOD_US: nominal period of the `tick` strobe; no rule's result depends on it (R218). -/
def tickPeriodUs : Nat := 1000000 / carrierHz

/-- SILENCE_BYTE (R6, 90_conflicts.md C1). -/
def silenceByte : Byte := 0

/-- TONE_HZ. -/
def toneHz : Nat := 1000

/-- TONE_N: tone phase steps per cycle. -/
def toneN : Nat := 100

/-- TONE_MID: the tone's centre value. -/
def toneMid : Nat := 128

/-- TONE_AMP: the tone's amplitude. -/
def toneAmp : Nat := 127

/-- PHASE_FRAC_BITS. -/
def phaseFracBits : Nat := 1

/-- NQ = TONE_N * 2^PHASE_FRAC_BITS, the modulus of `phase_q`. -/
def nq : Nat := toneN * 2 ^ phaseFracBits

/-- INC_Q = TONE_INC * 2^PHASE_FRAC_BITS with TONE_INC = TONE_HZ * TONE_N / CARRIER_HZ. -/
def incQ : Nat := toneHz * toneN * 2 ^ phaseFracBits / carrierHz

/-- ADC_BITS. -/
def adcBits : Nat := 12

/-- ADC_SHIFT = ADC_BITS - 8. -/
def adcShift : Nat := adcBits - 8

/-- DEBOUNCE_MS. -/
def debounceMs : Nat := 50

/-- POLL_MS: nominal, enforced by no rule (R142). -/
def pollMs : Nat := 10

/-- FREE VALUE (log entries 8, 9, 10): the `n`-th byte the spec leaves open, drawn when NEXT.TONE meets a phase of
NQ or more and when ADVANCE reads where the bound resource has no byte. It has no body: nothing is known of it. -/
opaque freeByte : Nat → Byte

end Sys2Proof.Config
end

