-- ==== Sys2Proof/Machine/Enums.lean ====
section
/-! DEFINITION. The block's enumerations and their codes (30_encoding.md R79 to R82). -/

namespace Sys2Proof.Machine

/-- The kind of the source a TICK asks (R79). -/
inductive SourceKind where
  | silence
  | fixedTone
  | liveInput
  | fileStream
  deriving DecidableEq, Repr

/-- The trigger machine's named states (R80); the reserved code 2'b11 has no constructor (R83 d). -/
inductive TriggerState where
  | idle
  | debouncing
  | confirmed
  deriving DecidableEq, Repr

/-- The second component ADVANCE returns (R81); never stored. -/
inductive AdvanceStatus where
  | continuing
  | done
  deriving DecidableEq, Repr

/-- The errors of 60_exceptions.md R175. -/
inductive ErrorKind where
  | resourceNotFound
  | streamReadFailure
  | configurationMismatch
  | initializationFailure
  | coreInitFailure
  deriving DecidableEq, Repr

/-- The diagnostic events of 60_exceptions.md R190. -/
inductive Diag where
  | started (len : Offset)
  | notFound
  | finished
  | mismatchWarning
  | storageInitFailed
  | fatal
  deriving DecidableEq, Repr

/-- 30_encoding.md R79. -/
def sourceKindCode : SourceKind → BitVec 2
  | .silence => 0b00#2
  | .fixedTone => 0b01#2
  | .liveInput => 0b10#2
  | .fileStream => 0b11#2

/-- 30_encoding.md R80. -/
def triggerStateCode : TriggerState → BitVec 2
  | .idle => 0b00#2
  | .debouncing => 0b01#2
  | .confirmed => 0b10#2

/-- 30_encoding.md R81. -/
def advanceStatusCode : AdvanceStatus → BitVec 1
  | .continuing => 0#1
  | .done => 1#1

/-- 30_encoding.md R82; 0 is no error, 6 and 7 are reserved. -/
def errorCode : ErrorKind → BitVec 3
  | .resourceNotFound => 1#3
  | .streamReadFailure => 2#3
  | .configurationMismatch => 3#3
  | .initializationFailure => 4#3
  | .coreInitFailure => 5#3

/-- 30_encoding.md R82; 0 is no event, 7 is reserved. -/
def diagCode : Diag → BitVec 3
  | .started _ => 1#3
  | .notFound => 2#3
  | .finished => 3#3
  | .mismatchWarning => 4#3
  | .storageInitFailed => 5#3
  | .fatal => 6#3

end Sys2Proof.Machine
end

