-- ==== Sys2Proof/Machine/Regs.lean ====
section
/-! DEFINITION. The configuration word CFG (10_state.md R40), the sixteen registers of R20, and their reset values
(70_reset_and_hazards.md R201). -/

namespace Sys2Proof.Machine

/-- The configuration word CFG (10_state.md R40). The defaults are those of the `.cfg` directive (30_encoding.md R86). -/
structure Cfg where
  liveEn : Bool := false
  toneEn : Bool := false
  statusEn : Bool := false
  storageOk : Bool := true
  coreOk : Bool := true
  deriving DecidableEq, Repr

/-- The sixteen registers of 10_state.md R20. -/
structure Regs where
  /-- `active`, R21. -/
  active : Bool
  /-- `stream_open`, R22. -/
  streamOpen : Bool
  /-- `cursor`, R23. -/
  cursor : Offset
  /-- `total_len`, R24. -/
  totalLen : Offset
  /-- `just_finished`, R25. -/
  justFinished : Bool
  /-- `raw_level`, R26: true is asserted. -/
  rawLevel : Bool
  /-- `deb_level`, R27. -/
  debLevel : Bool
  /-- `last_change`, R28. -/
  lastChange : Millis
  /-- `fsm`, R29. -/
  fsm : TriggerState
  /-- `start_req`, R30. -/
  startReq : Bool
  /-- `src_kind`, R31. -/
  srcKind : SourceKind
  /-- `phase_q`, R32. -/
  phaseQ : Phase
  /-- `duty`, R33. -/
  duty : Byte
  /-- `pwm_cnt`, R34. -/
  pwmCnt : Byte
  /-- `duty_active`, R35. -/
  dutyActive : Byte
  /-- `halted`, R36. -/
  halted : Bool
  deriving DecidableEq, Repr

/-- The fallback kind of a configuration (10_state.md R31, 43_modulation.md R152). -/
def fallbackKind (c : Cfg) : SourceKind :=
  if c.toneEn then .fixedTone else if c.liveEn then .liveInput else .silence

/-- Every register at its reset value under the configuration RESET samples (70_reset_and_hazards.md R201). -/
def resetRegs (c : Cfg) : Regs :=
  { active := false
    streamOpen := false
    cursor := 0
    totalLen := 0
    justFinished := false
    rawLevel := false
    debLevel := false
    lastChange := 0
    fsm := .idle
    startReq := false
    srcKind := fallbackKind c
    phaseQ := 0
    duty := Config.silenceByte
    pwmCnt := 0
    dutyActive := Config.silenceByte
    halted := !c.coreOk }

end Sys2Proof.Machine
end

