-- ==== Sys2Proof/Syntax.lean ====
section
/-! DEFINITION. The ten operations (spec/opcode_table.json, 30_encoding.md R72), the strobe ports and the operands an
event carries (R70, R75). -/

namespace Sys2Proof

/-- One constructor per row of spec/opcode_table.json, with the operands the row samples from the event. -/
inductive Instr where
  /-- RESET (70_reset_and_hazards.md R200). -/
  | reset
  /-- PWMCLK (43_modulation.md R163). -/
  | pwmclk
  /-- TICK.FILE (R153); `rdfail` is EVT[45]: the read of this step fails. -/
  | tickFile (rdfail : Bool)
  /-- TICK.TONE (R154). -/
  | tickTone
  /-- TICK.LIVE (R155); `adc` is EVT[44:33]. -/
  | tickLive (adc : AdcSample)
  /-- TICK.SILENCE (R156). -/
  | tickSilence
  /-- POLL (42_trigger.md R131); `pin` is EVT[32], the physical level (false: pulled to ground), `now` is EVT[31:0]. -/
  | poll (pin : Bool) (now : Millis)
  /-- START (41_playback.md R111). -/
  | start
  /-- ACKFIN (R121). -/
  | ackfin
  /-- NOP (43_modulation.md R166). -/
  | nop
  deriving DecidableEq, Repr

/-- The six request strobes, OPW bits 8:3 (30_encoding.md R70). -/
structure Strobes where
  rst : Bool := false
  pwmClk : Bool := false
  ackfin : Bool := false
  start : Bool := false
  poll : Bool := false
  tick : Bool := false
  deriving DecidableEq, Repr

/-- The operand fields of the event record, each at its canonical value 0 by default (30_encoding.md R75). -/
structure Operands where
  rdfail : Bool := false
  adc : AdcSample := 0
  pin : Bool := false
  now : Millis := 0
  deriving DecidableEq, Repr

/-- The wired bits 2:0 of OPW: register `active` and two configuration bits (30_encoding.md R70, R71). -/
structure Wires where
  active : Bool
  toneEn : Bool
  liveEn : Bool
  deriving DecidableEq, Repr

end Sys2Proof
end

