-- ==== Sys2Proof/Machine/State.lean ====
section
/-! DEFINITION. The state of the block and its surroundings as plain data (10_state.md R20, R40, R48; 20_memory.md
R50), the stimuli a schedule holds (30_encoding.md R75, R85 to R87), the reasons a step stops, and the state after
reset. -/

namespace Sys2Proof.Machine

/-- Bytes by offset, in one canonical form (`Memory.wf`): offsets strictly rising, no entry equal to what an unlisted
offset reads as. -/
abbrev Memory := List Host.Cell

/-- The bound audio resource, `(MEM_PRESENT, MEM_LEN, MEM)` (20_memory.md R50). -/
structure Resource where
  present : Bool
  len : Offset
  mem : Memory
  deriving DecidableEq, Repr

/-- What RESET samples: the configuration inputs and the two parameters of its mismatch check
(70_reset_and_hazards.md R200, R202; 00_scope.md R6). The defaults are log entry 3. -/
structure Straps where
  cfg : Cfg := {}
  carrierHzActual : Rat := 40000
  mismatchTolHz : Rat := 0
  deriving DecidableEq, Repr

/-- The model arguments of 00_scope.md R6 that no operation writes. The defaults are log entry 5; that the "ready" level
lies below the "playing" level (R6) is a clause of the invariant (log entry 26). -/
structure Params where
  /-- CONFIRM_AT_EQUAL (42_trigger.md R134). -/
  confirmAtEqual : Bool := false
  /-- STATUS_READY_LEVEL (43_modulation.md R165). -/
  statusReadyLevel : Nat := 0
  /-- STATUS_PLAYING_LEVEL (R165). -/
  statusPlayingLevel : Nat := 1
  deriving DecidableEq, Repr

/-- What the surroundings present to the block next. -/
inductive Stimulus where
  /-- A whole event record (30_encoding.md R75); refused when its wired bits disagree with the block (R71, R83 b). -/
  | event (evt : Evt)
  /-- Strobes and operands; the block wires OPW[2:0] itself (R71). -/
  | strobes (st : Strobes) (ops : Operands)
  /-- One pass of the main loop: `PASS` of 30_encoding.md R87, the discipline of 70_reset_and_hazards.md R217. -/
  | pass (pin : Bool) (now : Millis)
  /-- `.resource bytes=[...]` (R86; 20_memory.md R68). -/
  | bindBytes (bytes : List Byte)
  /-- `.resource absent` (R86). -/
  | bindAbsent
  /-- `.cfg` (R86): the straps the next RESET samples (10_state.md R40); with the configuration it sets the two
  parameters of RESET's mismatch check (log entry 27). -/
  | setStraps (straps : Straps)
  deriving DecidableEq, Repr

/-- The state: the registers, the configuration in force, what the surroundings hold ready, and the outputs' record. -/
structure State where
  /-- The sixteen registers (10_state.md R20). -/
  regs : Regs
  /-- The configuration word in force, constant from RESET to RESET (R40). -/
  cfg : Cfg
  /-- The straps the next RESET samples (R40, R86). -/
  straps : Straps
  /-- Open parameters (00_scope.md R6). -/
  params : Params
  /-- The bound audio resource (20_memory.md R50). -/
  resource : Resource
  /-- What the surroundings present, in order (10_state.md R48). -/
  schedule : List Stimulus
  /-- The diagnostic output trace, oldest first (60_exceptions.md R190). -/
  trace : List Diag
  /-- The errors raised, oldest first (60_exceptions.md R175). -/
  errors : List ErrorKind
  /-- The values TICK operations wrote to `duty`, oldest first (43_modulation.md R157). -/
  dutyWrites : List Byte
  /-- The model's own: how many free bytes have been drawn (log entry 10). -/
  freeDraws : Nat
  deriving DecidableEq, Repr

/-- No operation of the block stops it with a fault: errors are recovered in the step that meets them
(60_exceptions.md R175, R180, R185; 43_modulation.md R159). -/
inductive Fault where
  deriving DecidableEq, Repr

/-- Why a step is given no meaning. -/
inductive Refusal where
  /-- Raised by exec for an operation that has no meaning in the model yet; safe. -/
  | notModelled (mnemonic : String)
  /-- Raised by the step on a word with OPW[15:9] not 0 (30_encoding.md R83 a); safe. -/
  | opwReserved
  /-- Raised by the step on a record with EVT[47:46] not 0 (R83 c); safe. -/
  | recordReserved
  /-- Raised by the step on a word whose bits 2:0 disagree with the block (R71, R83 b); safe. -/
  | wiresDisagree
  /-- Raised by the step on a binding while a session is active (20_memory.md R65, 30_encoding.md R86); safe. -/
  | rebindWhileActive
  /-- Raised by the step on a resource of 2^CURSOR_BITS bytes or more (20_memory.md R50, 10_state.md R24); safe. -/
  | resourceTooLong
  deriving DecidableEq, Repr

/-- No resource bound: MEM_PRESENT = 0. -/
def Resource.absent : Resource := { present := false, len := 0, mem := [] }

/-- The machine right after reset: every register as RESET leaves it under the default straps (70_reset_and_hazards.md
R201), no resource, nothing scheduled, nothing yet put out (log entries 1, 3, 5, 6, 10, 12). -/
def State.reset : State :=
  { regs := resetRegs {}
    cfg := {}
    straps := {}
    params := {}
    resource := Resource.absent
    schedule := []
    trace := []
    errors := []
    dutyWrites := []
    freeDraws := 0 }

end Sys2Proof.Machine
end

