-- ==== Sys2Proof/Machine/Memory.lean ====
section
/-! DEFINITION. The audio resource: its canonical form, binding it, and reading one byte (20_memory.md R50 to R53). -/

namespace Sys2Proof.Machine

/-- What an unlisted offset of a bound resource reads as; a matter of representation only (log entry 7). -/
def Memory.unlisted : Byte := 0

/-- The canonical form from offset `lo` on. -/
def Memory.wfFrom (lo : Nat) : Memory → Bool
  | [] => true
  | (a, b) :: rest => decide (lo ≤ a) && b != Memory.unlisted && Memory.wfFrom (a + 1) rest

/-- The canonical form: offsets strictly rising, no entry equal to what an unlisted offset reads as. -/
def Memory.wf (m : Memory) : Bool := Memory.wfFrom 0 m

/-- The byte at an offset. -/
def Memory.read : Memory → Nat → Byte
  | [], _ => Memory.unlisted
  | (a, b) :: rest, off => if a = off then b else Memory.read rest off

/-- The bytes of a list at offsets `lo`, `lo + 1`, and on. -/
def Memory.ofBytesFrom (lo : Nat) : List Byte → Memory
  | [] => []
  | b :: rest =>
    if b = Memory.unlisted then Memory.ofBytesFrom (lo + 1) rest else (lo, b) :: Memory.ofBytesFrom (lo + 1) rest

/-- Every listed offset exists in a resource of `len` bytes. -/
def Memory.within (len : Nat) (m : Memory) : Bool := m.all (fun c => decide (c.1 < len))

/-- A resource is well formed: its bytes are in canonical form at offsets below its length (20_memory.md R50). -/
def Resource.wf (r : Resource) : Bool := Memory.wf r.mem && Memory.within r.len.toNat r.mem

/-- The resource that `.resource bytes=[...]` binds (30_encoding.md R86). -/
def Resource.ofBytes (bytes : List Byte) : Resource :=
  { present := true, len := BitVec.ofNat 32 bytes.length, mem := Memory.ofBytesFrom 0 bytes }

/-- `MemRead(off, 1)`: defined for `0 <= off < MEM_LEN` of a present resource and for nothing else (20_memory.md R52). -/
def Resource.read (r : Resource) (off : Offset) : Option Byte :=
  if r.present = true ∧ off < r.len then some (Memory.read r.mem off.toNat) else none

end Sys2Proof.Machine
end

