-- ==== Sys2Proof/Machine/Ops.lean ====
section
/-! DEFINITION. The operations over State that the meanings share: writing registers, raising and emitting, the PWM
write, drawing a free byte, reading the resource, and the halt gate.

The block has no exception entry and no return from one: `raise` records an error of the taxonomy and never transfers
control, and what else changes is stated by the rule that raises (00_scope.md R9, 60_exceptions.md R175, R185). So the
one shared operation of the kind is `State.raise`, with `State.report` where a diagnostic goes with it. -/

namespace Sys2Proof.Machine

/-- Replace the registers; everything else stays. -/
def State.withRegs (s : State) (r : Regs) : State := { s with regs := r }

/-- `raise E` (60_exceptions.md R175). -/
def State.raise (s : State) (e : ErrorKind) : State := { s with errors := s.errors ++ [e] }

/-- `emit D` (60_exceptions.md R190). -/
def State.emit (s : State) (d : Diag) : State := { s with trace := s.trace ++ [d] }

/-- Raise an error and emit its diagnostic when the condition holds (70_reset_and_hazards.md R200). -/
def State.report (s : State) (c : Bool) (e : ErrorKind) (d : Diag) : State := if c then (s.raise e).emit d else s

/-- Draw a free byte: an arbitrary one, a fresh one each time (log entry 10). -/
def State.draw (s : State) : Byte × State := (Config.freeByte s.freeDraws, { s with freeDraws := s.freeDraws + 1 })

/-- PWMWR: the last action of every TICK (43_modulation.md R157). -/
def State.pwmWrite (s : State) (b : Byte) : State :=
  { s with regs := { s.regs with duty := b }, dutyWrites := s.dutyWrites ++ [b] }

/-- The byte on `mem_data` at an offset: the resource's byte where there is one, else a free byte (20_memory.md R52,
43_modulation.md R159; log entry 8). -/
def State.memRead (s : State) (off : Offset) : Byte × State :=
  match s.resource.read off with
  | some b => (b, s)
  | none => s.draw

/-- The halt gate: while `halted = 1` an operation leaves everything unchanged (60_exceptions.md R180). -/
def unlessHalted (s : State) (f : State → State) : Host.Outcome State Fault Refusal :=
  if s.regs.halted then .next s else .next (f s)

/-- The step of a TICK once its source has answered with `b`: `src_kind <- kind; duty <- b` (43_modulation.md R153 to
R157, R167). -/
def State.deliver (s : State) (kind : SourceKind) (b : Byte) : State :=
  (s.withRegs { s.regs with srcKind := kind }).pwmWrite b

/-- The wired bits the block presents on OPW[2:0]: `active`, and the configuration in force, or under RST the
configuration being sampled (30_encoding.md R70, R71; log entry 4). -/
def State.wires (s : State) (rst : Bool) : Wires :=
  let c := if rst then s.straps.cfg else s.cfg
  { active := s.regs.active, toneEn := c.toneEn, liveEn := c.liveEn }

/-- Bind a resource; only while no session is active (20_memory.md R65, R68). -/
def State.bind (s : State) (r : Resource) : Host.Outcome State Fault Refusal :=
  if s.regs.active then .refused .rebindWhileActive else .next { s with resource := r }

/-- Bind the bytes listed; a resource of 2^CURSOR_BITS bytes or more cannot be bound (20_memory.md R50). -/
def State.bindBytes (s : State) (bytes : List Byte) : Host.Outcome State Fault Refusal :=
  if bytes.length < 2 ^ 32 then s.bind (Resource.ofBytes bytes) else .refused .resourceTooLong

end Sys2Proof.Machine
end

