-- ==== Sys2Proof/Machine/Flags.lean ====
section
/-! DEFINITION. The conditions and flag values the operations compute. The block has no carry, overflow, zero or sign
flag (10_state.md R39); these are its comparisons (40_sample_sources.md R100) and the next value of `fsm`. -/

namespace Sys2Proof.Machine

/-- `elapsed(a, b) = (a - b) mod 2^TS_BITS` (42_trigger.md R143). -/
def elapsed (a b : Millis) : Millis := a - b

/-- `stable(now)`: the debounce window has passed since `last_change` (42_trigger.md R131, R134). -/
def windowPassed (confirmAtEqual : Bool) (now lastChange : Millis) : Bool :=
  decide (Config.debounceMs < (elapsed now lastChange).toNat) ||
    (confirmAtEqual && decide ((elapsed now lastChange).toNat = Config.debounceMs))

/-- `fsm` after a POLL that flipped nothing (42_trigger.md R131, R138). -/
def waitingState (raw deb : Bool) : TriggerState := if raw != deb then .debouncing else .idle

/-- "Bytes remain": an unsigned compare (41_playback.md R116, 40_sample_sources.md R100 e). -/
def bytesRemain (r : Regs) : Bool := decide (r.cursor < r.totalLen)

/-- The phase after a tone sample (40_sample_sources.md R94). -/
def nextPhase (q : Phase) : Phase := BitVec.ofNat 8 ((q.toNat + Config.incQ) % Config.nq)

/-- `abs(CARRIER_HZ_ACTUAL - CARRIER_HZ) > MISMATCH_TOL_HZ` of two exact rationals, with the denominators multiplied out
(70_reset_and_hazards.md R200, 60_exceptions.md R178). -/
def carrierMismatch (st : Straps) : Bool :=
  let actual := st.carrierHzActual
  let tol := st.mismatchTolHz
  decide (tol.num * (actual.den : Int) <
    ((actual.num - (Config.carrierHz : Int) * (actual.den : Int)).natAbs : Int) * (tol.den : Int))

end Sys2Proof.Machine
end

