-- ==== Sys2Proof/Machine/Playback.lean ====
section
/-! DEFINITION. The playback controller: STOP, ADVANCE, START, ACKFIN (41_playback.md). -/

namespace Sys2Proof.Machine

/-- STOP (41_playback.md R117). -/
def State.stop (s : State) : State :=
  s.withRegs { s.regs with streamOpen := false, active := false, justFinished := true }

/-- What ADVANCE answers: the pair (byte, status) and the state it leaves. -/
structure Advanced where
  byte : Byte
  status : AdvanceStatus
  state : State
  deriving DecidableEq, Repr

/-- ADVANCE, which is NEXT.FILE (41_playback.md R116; R119 for the failed read; 60_exceptions.md R184 b for the order). -/
def advance (rdfail : Bool) (s : State) : Advanced :=
  if bytesRemain s.regs then
    if rdfail then
      { byte := Config.silenceByte, status := .done, state := (s.raise .streamReadFailure).stop }
    else
      let r := s.memRead s.regs.cursor
      { byte := r.1, status := .continuing, state := r.2.withRegs { r.2.regs with cursor := r.2.regs.cursor + 1 } }
  else
    { byte := Config.silenceByte, status := .done, state := s.stop }

/-- START's success: `active` last (41_playback.md R111, 20_memory.md R64). -/
def State.openSession (s : State) : State :=
  (s.withRegs { s.regs with totalLen := s.resource.len, cursor := 0, streamOpen := true, active := true }).emit
    (.started s.resource.len)

/-- START after `start_req <- 0` (41_playback.md R111 to R115; the order of the tests: 60_exceptions.md R184 c). -/
def State.tryStart (s : State) : State :=
  if s.regs.active then s
  else if !s.cfg.storageOk || !s.resource.present then (s.raise .resourceNotFound).emit .notFound
  else s.openSession

/-- START (41_playback.md R111). -/
def execStart (s : State) : Host.Outcome State Fault Refusal :=
  unlessHalted s (fun s => (s.withRegs { s.regs with startReq := false }).tryStart)

/-- ACKFIN's report (41_playback.md R121). -/
def State.reportFinished (s : State) : State :=
  if s.regs.justFinished then (s.emit .finished).withRegs { s.regs with justFinished := false } else s

/-- ACKFIN (41_playback.md R121). -/
def execAckfin (s : State) : Host.Outcome State Fault Refusal := unlessHalted s State.reportFinished

end Sys2Proof.Machine
end

