-- ==== Sys2Proof/WellFormed.lean ====
section
/-! DEFINITION. Which operations a word can select under given wired bits (the arbiter, 30_encoding.md R73), and which
event records use no reserved bit (R83). Operand widths are in the types, so they need no check. -/

namespace Sys2Proof

/-- The operation can be selected by a word whose bits 2:0 are `w`: the four TICK rows partition the values of those
bits (30_encoding.md R72, R73); the other rows do not examine them. -/
def Instr.wellFormed (w : Wires) : Instr → Bool
  | .tickFile _ => w.active
  | .tickTone => !w.active && w.toneEn
  | .tickLive _ => !w.active && !w.toneEn && w.liveEn
  | .tickSilence => !w.active && !w.toneEn && !w.liveEn
  | .reset => true
  | .pwmclk => true
  | .poll _ _ => true
  | .start => true
  | .ackfin => true
  | .nop => true

/-- EVT[63:48], the operation-select word (30_encoding.md R75). -/
def Evt.opw (e : Evt) : Opw := e.extractLsb' 48 16

/-- OPW[15:9] are clear (30_encoding.md R83 a). -/
def Evt.opwReservedClear (e : Evt) : Bool := Evt.opw e &&& 0xFE00#16 == 0#16

/-- EVT[47:46] are clear (30_encoding.md R83 c). -/
def Evt.recordReservedClear (e : Evt) : Bool := e.extractLsb' 46 2 == 0#2

/-- The record uses no reserved bit (30_encoding.md R83). -/
def Evt.wellFormed (e : Evt) : Bool := Evt.opwReservedClear e && Evt.recordReservedClear e

end Sys2Proof
end

