-- ==== Sys2Proof/Decode.lean ====
section
/-! DEFINITION. The decoder of event records and the encoder (30_encoding.md R70 to R75, R83, R88). The decode table
is spec/opcode_table.json row by row, in the order in which R74 performs coincident operations. -/

namespace Sys2Proof

/-- EVT[45] (30_encoding.md R75). -/
def Evt.rdfail (e : Evt) : Bool := e.getLsbD 45

/-- EVT[44:33]. -/
def Evt.adc (e : Evt) : AdcSample := e.extractLsb' 33 12

/-- EVT[32]. -/
def Evt.pin (e : Evt) : Bool := e.getLsbD 32

/-- EVT[31:0]. -/
def Evt.now (e : Evt) : Millis := e.extractLsb' 0 32

/-- OPW[8], the RST strobe. -/
def Evt.rst (e : Evt) : Bool := (Evt.opw e).getLsbD 8

/-- OPW[2:0] as the word carries them. -/
def Evt.wires (e : Evt) : Wires :=
  { active := (Evt.opw e).getLsbD 2, toneEn := (Evt.opw e).getLsbD 1, liveEn := (Evt.opw e).getLsbD 0 }

/-- One row of the opcode map: a word selects the row when its bits under `mask` are `pattern` (30_encoding.md R72);
`build` takes the row's operands from the record. -/
structure OpcodeRow where
  mnemonic : String
  mask : Opw
  pattern : Opw
  build : Evt → Instr

/-- The word selects the row (30_encoding.md R72). -/
def OpcodeRow.selects (row : OpcodeRow) (opw : Opw) : Bool := opw &&& row.mask == row.pattern

/-- The opcode map of 30_encoding.md R72, in the order of R74: PWMCLK, the TICK rows, POLL, START, ACKFIN. RESET and
NOP coincide with no other row. -/
def opcodeTable : List OpcodeRow :=
  [ ⟨"RESET", 0xFF00, 0x0100, fun _ => .reset⟩,
    ⟨"PWMCLK", 0xFF80, 0x0080, fun _ => .pwmclk⟩,
    ⟨"TICK.FILE", 0xFF0C, 0x000C, fun e => .tickFile (Evt.rdfail e)⟩,
    ⟨"TICK.TONE", 0xFF0E, 0x000A, fun _ => .tickTone⟩,
    ⟨"TICK.LIVE", 0xFF0F, 0x0009, fun e => .tickLive (Evt.adc e)⟩,
    ⟨"TICK.SILENCE", 0xFF0F, 0x0008, fun _ => .tickSilence⟩,
    ⟨"POLL", 0xFF10, 0x0010, fun e => .poll (Evt.pin e) (Evt.now e)⟩,
    ⟨"START", 0xFF20, 0x0020, fun _ => .start⟩,
    ⟨"ACKFIN", 0xFF40, 0x0040, fun _ => .ackfin⟩,
    ⟨"NOP", 0xFFF8, 0x0000, fun _ => .nop⟩ ]

/-- Why a record has no meaning (30_encoding.md R83 a, c). -/
inductive DecodeReject where
  /-- OPW[15:9] not all 0. -/
  | opwReserved
  /-- EVT[47:46] not all 0. -/
  | recordReserved
  deriving DecidableEq, Repr

/-- What a record decodes to: the operations it selects, in the order they are performed, or a rejection. -/
inductive Decoded where
  | operations (is : List Instr)
  | rejected (why : DecodeReject)
  deriving DecidableEq, Repr

/-- The operations selected by the record, in the order of 30_encoding.md R74. -/
def selected (e : Evt) : List Instr :=
  (opcodeTable.filter (fun row => row.selects (Evt.opw e))).map (fun row => row.build e)

/-- The decoder, total on all 2^64 records: a word selects every row it matches, reserved bits are refused
(30_encoding.md R72, R74, R83). Whether the wired bits agree with the block is the step's question (R71). -/
def decode (e : Evt) : Decoded :=
  if Evt.opwReservedClear e then
    if Evt.recordReservedClear e then .operations (selected e) else .rejected .recordReserved
  else .rejected .opwReserved

/-- One bit of a word. -/
def bit (b : Bool) : BitVec 1 := BitVec.ofBool b

/-- OPW as `{7'b0, strobes[5:0], active, CFG_TONE_EN, CFG_LIVE_EN}` (30_encoding.md R71). -/
def assembleOpw (st : Strobes) (w : Wires) : Opw :=
  0#7 ++ bit st.rst ++ bit st.pwmClk ++ bit st.ackfin ++ bit st.start ++ bit st.poll ++ bit st.tick
    ++ bit w.active ++ bit w.toneEn ++ bit w.liveEn

/-- EVT from its fields (30_encoding.md R75). -/
def assembleEvt (opw : Opw) (o : Operands) : Evt :=
  opw ++ 0#2 ++ bit o.rdfail ++ o.adc ++ bit o.pin ++ o.now

/-- The one strobe that requests the operation (30_encoding.md R70). -/
def Instr.strobes : Instr → Strobes
  | .reset => { rst := true }
  | .pwmclk => { pwmClk := true }
  | .tickFile _ => { tick := true }
  | .tickTone => { tick := true }
  | .tickLive _ => { tick := true }
  | .tickSilence => { tick := true }
  | .poll _ _ => { poll := true }
  | .start => { start := true }
  | .ackfin => { ackfin := true }
  | .nop => {}

/-- The operation's operands, the others at their canonical 0 (30_encoding.md R75). -/
def Instr.operands : Instr → Operands
  | .tickFile rdfail => { rdfail := rdfail }
  | .tickLive adc => { adc := adc }
  | .poll pin now => { pin := pin, now := now }
  | .reset => {}
  | .pwmclk => {}
  | .tickTone => {}
  | .tickSilence => {}
  | .start => {}
  | .ackfin => {}
  | .nop => {}

/-- The single-strobe record of an operation in a block whose wired bits are `w` (30_encoding.md R71, R88). -/
def encode (w : Wires) (i : Instr) : Evt := assembleEvt (assembleOpw i.strobes w) i.operands

/-- The record whose first `nbits` bits, counted from bit 0 of OPW and on into the operand words, are `w`; the bits
above are 0. Bits 15:0 are OPW, bits 63:16 are EVT[47:0] (log entry 16). -/
def tableWordEvt (nbits w : Nat) : Evt :=
  BitVec.ofNat 16 (w % 2 ^ nbits) ++ BitVec.ofNat 48 ((w % 2 ^ nbits) >>> 16)

/-- The instruction the decoder reads from a word numbered as spec/opcode_table.json numbers it; of a word that selects
several, the one performed first (log entry 15). -/
def decodeTableWord (nbits w : Nat) : Option Instr :=
  match decode (tableWordEvt nbits w) with
  | .operations (i :: _) => some i
  | .operations [] => none
  | .rejected _ => none

end Sys2Proof
end

