-- ==== Sys2Proof/Machine/Operands.lean ====
section
/-! DEFINITION. Operand assembly: the logical level of the pin (30_encoding.md R76), the 8-bit live sample (R77), the
tone function (20_memory.md R54, 40_sample_sources.md R93), and the record a block sees for given strobes (R71). -/

namespace Sys2Proof.Machine

/-- `lvl = NOT pin`: 1 when the line is pulled to ground (30_encoding.md R76). -/
def logicalLevel (pin : Bool) : Bool := !pin

/-- The top eight bits of the analog sample, `adc >> ADC_SHIFT` (30_encoding.md R77). -/
def liveSample (adc : AdcSample) : Byte := (adc >>> Config.adcShift).setWidth 8

/-- `round(127 * sin(2π * q / 200))` for `q = 0 .. 50`, the first quarter of the cycle (40_sample_sources.md R93). -/
def toneQuarter : List Nat :=
  [0, 4, 8, 12, 16, 20, 24, 28, 32, 35, 39, 43, 47, 50, 54, 58, 61] ++
  [65, 68, 71, 75, 78, 81, 84, 87, 90, 93, 95, 98, 100, 103, 105, 107, 109] ++
  [111, 113, 115, 117, 118, 119, 121, 122, 123, 124, 125, 125, 126, 126, 127, 127, 127]

/-- `TONE(q)` for `q < NQ`, by the sine's symmetry over its four quarters; rounding is symmetric about 0
(40_sample_sources.md R93, R96). For `q >= NQ`, where R93 gives no value, none. -/
def tone (q : Phase) : Option Byte :=
  let n := q.toNat
  let quarter := Config.nq / 4
  if n ≤ quarter then some (BitVec.ofNat 8 (Config.toneMid + toneQuarter.getD n 0))
  else if n ≤ 2 * quarter then some (BitVec.ofNat 8 (Config.toneMid + toneQuarter.getD (2 * quarter - n) 0))
  else if n ≤ 3 * quarter then some (BitVec.ofNat 8 (Config.toneMid - toneQuarter.getD (n - 2 * quarter) 0))
  else if n < Config.nq then some (BitVec.ofNat 8 (Config.toneMid - toneQuarter.getD (4 * quarter - n) 0))
  else none

/-- The record a block in state `s` sees when the surroundings set these strobes and operands (30_encoding.md R71, R88). -/
def State.eventFor (s : State) (st : Strobes) (ops : Operands) : Evt :=
  assembleEvt (assembleOpw st (s.wires st.rst)) ops

end Sys2Proof.Machine
end

