-- ==== Sys2Proof/Machine/Sources.lean ====
section
/-! DEFINITION. The sources with no session: NEXT.SILENCE, NEXT.TONE, NEXT.LIVE (40_sample_sources.md R90 to R98).
NEXT.FILE is ADVANCE, in Machine/Playback.lean. -/

namespace Sys2Proof.Machine

/-- NEXT.SILENCE (R91). -/
def nextSilence : Byte := Config.silenceByte

/-- The tone sample at the phase before its increment, a free byte where R93 gives none (log entry 9). -/
def State.toneSample (s : State) : Byte × State :=
  match tone s.regs.phaseQ with
  | some b => (b, s)
  | none => s.draw

/-- NEXT.TONE: sample, then increment the phase (R92). -/
def nextTone (s : State) : Byte × State :=
  let r := s.toneSample
  (r.1, r.2.withRegs { r.2.regs with phaseQ := nextPhase r.2.regs.phaseQ })

/-- NEXT.LIVE (R98). -/
def nextLive (adc : AdcSample) : Byte := liveSample adc

end Sys2Proof.Machine
end

