-- ==== Sys2Proof/Machine/Modulation.lean ====
section
/-! DEFINITION. The modulation engine: the four TICK operations, and NOP (43_modulation.md R150 to R159, R166). Which of
the four a word selects is the decoder's arbiter; a meaning here is the operation itself (log entry 13). -/

namespace Sys2Proof.Machine

/-- TICK.FILE (43_modulation.md R153). -/
def execTickFile (rdfail : Bool) (s : State) : Host.Outcome State Fault Refusal :=
  unlessHalted s (fun s => (advance rdfail s).state.deliver .fileStream (advance rdfail s).byte)

/-- TICK.TONE (43_modulation.md R154). -/
def execTickTone (s : State) : Host.Outcome State Fault Refusal :=
  unlessHalted s (fun s => (nextTone s).2.deliver .fixedTone (nextTone s).1)

/-- TICK.LIVE (43_modulation.md R155). -/
def execTickLive (adc : AdcSample) (s : State) : Host.Outcome State Fault Refusal :=
  unlessHalted s (fun s => s.deliver .liveInput (nextLive adc))

/-- TICK.SILENCE (43_modulation.md R156). -/
def execTickSilence (s : State) : Host.Outcome State Fault Refusal :=
  unlessHalted s (fun s => s.deliver .silence nextSilence)

/-- NOP (43_modulation.md R166). -/
def execNop (s : State) : Host.Outcome State Fault Refusal := unlessHalted s id

end Sys2Proof.Machine
end

