-- ==== Sys2Proof/Machine/Pwm.lean ====
section
/-! DEFINITION. The PWM generator: PWMCLK (43_modulation.md R160 to R163). -/

namespace Sys2Proof.Machine

/-- PWMCLK on the registers: the shadow loads on the wrap, the counter counts modulo 256 (43_modulation.md R163). -/
def pwmclkRegs (r : Regs) : Regs :=
  { r with
    dutyActive := if r.pwmCnt = 255 then r.duty else r.dutyActive
    pwmCnt := r.pwmCnt + 1 }

/-- PWMCLK (43_modulation.md R163). -/
def execPwmclk (s : State) : Host.Outcome State Fault Refusal :=
  unlessHalted s (fun s => s.withRegs (pwmclkRegs s.regs))

end Sys2Proof.Machine
end

