-- ==== Sys2Proof/Machine/Reset.lean ====
section
/-! DEFINITION. RESET (70_reset_and_hazards.md R200, R201). -/

namespace Sys2Proof.Machine

/-- Sample the straps and put every register at its reset value (70_reset_and_hazards.md R200, R201, R202). -/
def State.coldStart (s : State) : State := { s with regs := resetRegs s.straps.cfg, cfg := s.straps.cfg }

/-- RESET: the one operation a halted block performs; its three reports in the order of 60_exceptions.md R184 d. -/
def execReset (s : State) : Host.Outcome State Fault Refusal :=
  .next
    (((s.coldStart.report (!s.straps.cfg.coreOk) .coreInitFailure .fatal).report
      (!s.straps.cfg.storageOk) .initializationFailure .storageInitFailed).report
      (carrierMismatch s.straps) .configurationMismatch .mismatchWarning)

end Sys2Proof.Machine
end

