-- ==== Sys2Proof/Machine/Trigger.lean ====
section
/-! DEFINITION. The debounced edge detector: POLL (42_trigger.md R130 to R144). -/

namespace Sys2Proof.Machine

/-- POLL on the registers: a raw-level change, a confirmation, or neither (42_trigger.md R131). -/
def pollRegs (confirmAtEqual pin : Bool) (now : Millis) (r : Regs) : Regs :=
  let lvl := logicalLevel pin
  if lvl ≠ r.rawLevel then
    { r with rawLevel := lvl, lastChange := now, fsm := waitingState lvl r.debLevel }
  else if r.rawLevel ≠ r.debLevel ∧ windowPassed confirmAtEqual now r.lastChange = true then
    { r with
      debLevel := r.rawLevel
      fsm := .confirmed
      startReq := if r.rawLevel && !r.active then true else r.startReq }
  else
    { r with fsm := waitingState r.rawLevel r.debLevel }

/-- POLL (42_trigger.md R131). -/
def execPoll (pin : Bool) (now : Millis) (s : State) : Host.Outcome State Fault Refusal :=
  unlessHalted s (fun s => s.withRegs (pollRegs s.params.confirmAtEqual pin now s.regs))

end Sys2Proof.Machine
end

