-- ==== Sys2Proof/Machine/Dispatch.lean ====
section
/-! DEFINITION. One arm per operation. -/

namespace Sys2Proof.Machine

def exec (i : Instr) (s : State) : Host.Outcome State Fault Refusal :=
  match i with
  | .reset => Sys2Proof.Machine.execReset s
  | .pwmclk => Sys2Proof.Machine.execPwmclk s
  | .tickFile rdfail => Sys2Proof.Machine.execTickFile rdfail s
  | .tickTone => Sys2Proof.Machine.execTickTone s
  | .tickLive adc => Sys2Proof.Machine.execTickLive adc s
  | .tickSilence => Sys2Proof.Machine.execTickSilence s
  | .poll pin now => Sys2Proof.Machine.execPoll pin now s
  | .start => Sys2Proof.Machine.execStart s
  | .ackfin => Sys2Proof.Machine.execAckfin s
  | .nop => Sys2Proof.Machine.execNop s

end Sys2Proof.Machine
end

