-- ==== Sys2Proof/Machine/Schedule.lean ====
section
/-! DEFINITION. What a step does with the next stimulus: decoding an event record against the block's wired bits
(30_encoding.md R71, R83), performing its operations in order (R74), main-loop passes (R87), bindings and straps. -/

namespace Sys2Proof.Machine

/-- The operations of one word, each on the state the one before left (30_encoding.md R74). -/
def execAll : List Instr → State → Host.Outcome State Fault Refusal
  | [], s => .next s
  | i :: rest, s =>
    match exec i s with
    | .next s' => execAll rest s'
    | .fault f => .fault f
    | .refused r => .refused r

/-- The refusal that reports a rejected record (30_encoding.md R83). -/
def rejectRefusal : DecodeReject → Refusal
  | .opwReserved => .opwReserved
  | .recordReserved => .recordReserved

/-- Present one event record to the block (30_encoding.md R71, R74, R83). -/
def performEvent (e : Evt) (s : State) : Host.Outcome State Fault Refusal :=
  match decode e with
  | .rejected why => .refused (rejectRefusal why)
  | .operations is => if Evt.wires e = s.wires (Evt.rst e) then execAll is s else .refused .wiresDisagree

/-- What is left of a pass after its POLL: START if and only if a start is requested, then ACKFIN (30_encoding.md R87,
70_reset_and_hazards.md R217). -/
def passTail (s : State) : List Stimulus :=
  if s.regs.startReq then [.strobes { start := true } {}, .strobes { ackfin := true } {}]
  else [.strobes { ackfin := true } {}]

/-- The POLL of a pass, with the rest of the pass put at the front of the schedule. -/
def performPass (pin : Bool) (now : Millis) (s : State) : Host.Outcome State Fault Refusal :=
  match performEvent (s.eventFor { poll := true } { pin := pin, now := now }) s with
  | .next s' => .next { s' with schedule := passTail s' ++ s'.schedule }
  | .fault f => .fault f
  | .refused r => .refused r

/-- One stimulus, already taken off the schedule. -/
def perform (st : Stimulus) (s : State) : Host.Outcome State Fault Refusal :=
  match st with
  | .event e => performEvent e s
  | .strobes str ops => performEvent (s.eventFor str ops) s
  | .pass pin now => performPass pin now s
  | .bindBytes bytes => s.bindBytes bytes
  | .bindAbsent => s.bind Resource.absent
  | .setStraps straps => .next { s with straps := straps }

/-- Take the next stimulus and perform it; with nothing scheduled no strobe is set, which is NOP (43_modulation.md R166;
log entry 2). -/
def performNext (s : State) : Host.Outcome State Fault Refusal :=
  match s.schedule with
  | [] => exec .nop s
  | st :: rest => perform st { s with schedule := rest }

/-- The block with its wired bits set to `w` under strobe RST = `rst`: what a word that carries `w` needs in order to be
possible (30_encoding.md R71; log entry 17). `stream_open` follows `active` (10_state.md R43). -/
def State.rewire (s : State) (w : Wires) (rst : Bool) : State :=
  let s := s.withRegs { s.regs with active := w.active, streamOpen := w.active }
  if rst then { s with straps := { s.straps with cfg := { s.straps.cfg with toneEn := w.toneEn, liveEn := w.liveEn } } }
  else { s with cfg := { s.cfg with toneEn := w.toneEn, liveEn := w.liveEn } }

/-- The record put at the front of the schedule of a block that can be presented with it. -/
def State.presentNext (s : State) (e : Evt) : State :=
  let s := s.rewire (Evt.wires e) (Evt.rst e)
  { s with schedule := .event e :: s.schedule }

end Sys2Proof.Machine
end

