-- ==== Sys2Proof/Machine/Step.lean ====
section
/-! DEFINITION. One step of the machine, and placing the instruction the next step runs. -/

namespace Sys2Proof.Machine

/-- One step: the next stimulus of the schedule (20_memory.md R60, R61; 10_state.md R48). -/
def step (s : State) : Host.Outcome State Fault Refusal := performNext s

/-- `s` with the instruction whose table-numbered bits are `w` presented to the next step (log entries 16, 17). -/
def State.withFetchWord (s : State) (nbits w : Nat) : State := s.presentNext (tableWordEvt nbits w)

end Sys2Proof.Machine
end

