-- ==== Sys2Proof/Machine/Script.lean ====
section
/-! DEFINITION. The stimulus syntax of 30_encoding.md R85 to R87: each line and the stimuli it stands for. -/

namespace Sys2Proof.Machine

/-- A line of a stimulus script (R85), a directive (R86) or a pseudo-operation (R87). -/
inductive ScriptLine where
  | reset
  | pwmclk
  | tick (adc : AdcSample) (rdfail : Bool)
  | poll (t : Millis) (pin : Bool)
  | start
  | ackfin
  | nop
  | cfg (straps : Straps)
  | resourceAbsent
  | resourceBytes (bytes : List Byte)
  | ticks (n : Nat) (adc : AdcSample)
  | pwmclks (n : Nat)
  | pass (t : Millis) (pin : Bool)
  | hold (pin : Bool) (first last stride : Nat)
  deriving DecidableEq, Repr

/-- The times `first, first + stride, …` up to `last`, at most `fuel` of them. -/
def holdTimes (last stride : Nat) : Nat → Nat → List Nat
  | 0, _ => []
  | fuel + 1, t => if t ≤ last then t :: holdTimes last stride fuel (t + stride) else []

/-- The stimuli a line stands for (R85 to R87). A HOLD with step 0 stands for one pass (log entry 20). The `.cfg` line
carries the five keys of R86 and, by the model's choice, CARRIER_HZ_ACTUAL and MISMATCH_TOL_HZ as well (log entry 27). -/
def ScriptLine.stimuli : ScriptLine → List Stimulus
  | .reset => [.strobes { rst := true } {}]
  | .pwmclk => [.strobes { pwmClk := true } {}]
  | .tick adc rdfail => [.strobes { tick := true } { adc := adc, rdfail := rdfail }]
  | .poll t pin => [.strobes { poll := true } { pin := pin, now := t }]
  | .start => [.strobes { start := true } {}]
  | .ackfin => [.strobes { ackfin := true } {}]
  | .nop => [.strobes {} {}]
  | .cfg straps => [.setStraps straps]
  | .resourceAbsent => [.bindAbsent]
  | .resourceBytes bytes => [.bindBytes bytes]
  | .ticks n adc => List.replicate n (.strobes { tick := true } { adc := adc })
  | .pwmclks n => List.replicate n (.strobes { pwmClk := true } {})
  | .pass t pin => [.pass pin t]
  | .hold pin first last stride =>
    (holdTimes last stride ((last - first) / stride + 1) first).map (fun t => .pass pin (BitVec.ofNat 32 t))

/-- The schedule a script stands for. -/
def scriptStimuli (lines : List ScriptLine) : List Stimulus := lines.flatMap ScriptLine.stimuli

end Sys2Proof.Machine
end

