-- ==== Sys2Proof/Machine/Outputs.lean ====
section
/-! DEFINITION. The output ports of 10_state.md R42 and the views CFG and STATUS (R40, R41) as functions of State. -/

namespace Sys2Proof.Machine

/-- `is_active`, the query ISACTIVE (41_playback.md R120). -/
def State.isActive (s : State) : Bool := s.regs.active

/-- `start_req` (10_state.md R42). -/
def State.startReqOut (s : State) : Bool := s.regs.startReq

/-- `duty_out` (10_state.md R42). -/
def State.dutyOut (s : State) : Byte := s.regs.duty

/-- `mem_addr`, the offset of the byte requested (10_state.md R42). -/
def State.memAddr (s : State) : Offset := s.regs.cursor

/-- `carrier_out`: an unsigned strict compare (43_modulation.md R161). -/
def State.carrierOut (s : State) : Bool := decide (s.regs.pwmCnt < s.regs.dutyActive)

/-- `status_level`: true is "playing"; present only if CFG_STATUS_EN (43_modulation.md R165). -/
def State.statusLevel (s : State) : Option Bool := if s.cfg.statusEn then some s.regs.active else none

/-- The brightness `status_level` stands for (43_modulation.md R165). -/
def State.statusBrightness (s : State) : Option Nat :=
  s.statusLevel.map (fun playing => if playing then s.params.statusPlayingLevel else s.params.statusReadyLevel)

/-- `diag`: what a step from `before` to `after` emitted (10_state.md R42, 60_exceptions.md R190). -/
def diagOut (before after : State) : List Diag := after.trace.drop before.trace.length

/-- The duration a Started diagnostic stands for, in seconds (41_playback.md R115). -/
def durationSeconds (len : Offset) : Rat := (len.toNat : Rat) / (Config.carrierHz : Rat)

/-- The configuration word CFG: bit 0 LIVE_EN, 1 TONE_EN, 2 STATUS_EN, 3 STORAGE_OK, 4 CORE_OK (10_state.md R40). -/
def cfgWord (c : Cfg) : BitVec 5 :=
  BitVec.ofBool c.coreOk ++ BitVec.ofBool c.storageOk ++ BitVec.ofBool c.statusEn ++ BitVec.ofBool c.toneEn
    ++ BitVec.ofBool c.liveEn

/-- The view STATUS: bit 0 `active`, 1 `just_finished`, 2 `start_req`, 3 `deb_level`, 4 `raw_level`, 6:5 `fsm`,
8:7 `src_kind` (10_state.md R41). -/
def State.statusWord (s : State) : BitVec 9 :=
  sourceKindCode s.regs.srcKind ++ triggerStateCode s.regs.fsm ++ BitVec.ofBool s.regs.rawLevel
    ++ BitVec.ofBool s.regs.debLevel ++ BitVec.ofBool s.regs.startReq ++ BitVec.ofBool s.regs.justFinished
    ++ BitVec.ofBool s.regs.active

end Sys2Proof.Machine
end

