-- ==== Sys2Proof/Safety.lean ====
section
/-! DEFINITION. What claims are stated in: the invariant of the block (10_state.md R43 to R46 and what follows from the
operations), and the words for runs of operations. -/

namespace Sys2Proof.Machine

/-- The invariant every step keeps. States that break it are reached by no run from reset. -/
structure Inv (s : State) : Prop where
  /-- 10_state.md R43. -/
  stream_open_is_active : s.regs.streamOpen = s.regs.active
  /-- 10_state.md R45. -/
  cursor_within : s.regs.cursor ≤ s.regs.totalLen
  /-- 10_state.md R46: below NQ. -/
  phase_below : s.regs.phaseQ.toNat < Config.nq
  /-- 10_state.md R46: a multiple of 5 under the default parameters. -/
  phase_on_grid : s.regs.phaseQ.toNat % Config.incQ = 0
  /-- 20_memory.md R65: a session plays the resource START sampled. -/
  session_bound : s.regs.active = true → s.resource.present = true ∧ s.regs.totalLen = s.resource.len
  /-- 42_trigger.md R136. -/
  no_request_in_session : ¬(s.regs.startReq = true ∧ s.regs.active = true)
  /-- 42_trigger.md R138, R139. -/
  fsm_names_levels : s.regs.fsm = .debouncing ↔ s.regs.rawLevel ≠ s.regs.debLevel
  /-- 60_exceptions.md R179. -/
  no_session_without_storage : s.cfg.storageOk = false → s.regs.active = false
  /-- 43_modulation.md R152, R167. -/
  source_is_file_or_fallback : s.regs.srcKind = .fileStream ∨ s.regs.srcKind = fallbackKind s.cfg
  /-- 10_state.md R36. -/
  halted_is_core_failure : s.regs.halted = !s.cfg.coreOk
  /-- 60_exceptions.md R180: a halted block stays as RESET left it. -/
  halted_is_cold : s.regs.halted = true → s.regs = resetRegs s.cfg
  /-- The resource is in canonical form (20_memory.md R50). -/
  resource_wf : Resource.wf s.resource = true
  /-- The "playing" level is brighter than the "ready" level (00_scope.md R6, 43_modulation.md R165). -/
  ready_below_playing : s.params.statusReadyLevel < s.params.statusPlayingLevel

/-- The operation runs: the block is not halted (60_exceptions.md R180). -/
def State.running (s : State) : Prop := s.regs.halted = false

/-- The operation is one of the interrupt context's (10_state.md R49). -/
def isTick : Instr → Bool
  | .tickFile _ => true
  | .tickTone => true
  | .tickLive _ => true
  | .tickSilence => true
  | .reset => false
  | .pwmclk => false
  | .poll _ _ => false
  | .start => false
  | .ackfin => false
  | .nop => false

/-- The registers of the trigger detector (10_state.md R20, group trigger). -/
structure TriggerRegs where
  rawLevel : Bool
  debLevel : Bool
  lastChange : Millis
  fsm : TriggerState
  startReq : Bool
  deriving DecidableEq, Repr

/-- The trigger detector's registers of a register file. -/
def triggerOf (r : Regs) : TriggerRegs :=
  { rawLevel := r.rawLevel, debLevel := r.debLevel, lastChange := r.lastChange, fsm := r.fsm, startReq := r.startReq }

/-- The register file with other trigger registers. -/
def withTrigger (r : Regs) (t : TriggerRegs) : Regs :=
  { r with rawLevel := t.rawLevel, debLevel := t.debLevel, lastChange := t.lastChange, fsm := t.fsm, startReq := t.startReq }

/-- Everything outside the registers and the recorded outputs is the same, every byte of the resource among it. -/
structure SameSurroundings (s t : State) : Prop where
  cfg : t.cfg = s.cfg
  straps : t.straps = s.straps
  params : t.params = s.params
  bound : t.resource.present = s.resource.present ∧ t.resource.len = s.resource.len
  bytes : ∀ off : Offset, t.resource.read off = s.resource.read off
  cells : t.resource.mem = s.resource.mem
  schedule : t.schedule = s.schedule

/-- The TICK operation the priority arbiter selects (30_encoding.md R73, 43_modulation.md R151, R152). -/
def arbitrated (w : Wires) (o : Operands) : Instr :=
  if w.active then .tickFile o.rdfail
  else if w.toneEn then .tickTone
  else if w.liveEn then .tickLive o.adc
  else .tickSilence

/-- The operations a word's strobes request, in the order of 30_encoding.md R74; NOP where no strobe is set (R72). -/
def requested (st : Strobes) (w : Wires) (o : Operands) : List Instr :=
  if st.rst then [.reset]
  else if st.pwmClk || st.tick || st.poll || st.start || st.ackfin then
    (if st.pwmClk then [.pwmclk] else []) ++ (if st.tick then [arbitrated w o] else []) ++
    (if st.poll then [.poll o.pin o.now] else []) ++ (if st.start then [.start] else []) ++
    (if st.ackfin then [.ackfin] else [])
  else [.nop]

/-- The strobes of a word one by one, in the order of 30_encoding.md R74. -/
def singleStrobes (st : Strobes) : List Strobes :=
  (if st.pwmClk then [{ pwmClk := true }] else []) ++ (if st.tick then [{ tick := true }] else []) ++
  (if st.poll then [{ poll := true }] else []) ++ (if st.start then [{ start := true }] else []) ++
  (if st.ackfin then [{ ackfin := true }] else [])

/-- The stimulus is a tick strobe. -/
def isTickStrobe : Stimulus → Bool
  | .strobes st _ => st.tick
  | .event _ => false
  | .pass _ _ => false
  | .bindBytes _ => false
  | .bindAbsent => false
  | .setStraps _ => false

/-- A row of the opcode map: in every record without reserved bits, the operation is selected exactly when the word's
bits under the mask are the pattern (30_encoding.md R72). -/
def SelectedBy (mask pattern : Opw) (op : Evt → Instr) : Prop :=
  ∀ e : Evt, Evt.wellFormed e = true →
    ∃ ops, decode e = .operations ops ∧ (op e ∈ ops ↔ Evt.opw e &&& mask = pattern)

/-- The debounce window has passed at `now` (42_trigger.md R134, R143), in plain arithmetic. -/
def Stable (s : State) (now : Millis) : Prop :=
  50 < (now.toNat + 2 ^ 32 - s.regs.lastChange.toNat) % 2 ^ 32 ∨
    s.params.confirmAtEqual = true ∧ (now.toNat + 2 ^ 32 - s.regs.lastChange.toNat) % 2 ^ 32 = 50

/-- The states in which the operations of a list begin. -/
def trail : List Instr → State → List State
  | [], _ => []
  | i :: rest, s =>
    s :: (match exec i s with
      | .next t => trail rest t
      | .fault _ => []
      | .refused _ => [])

end Sys2Proof.Machine
end

