-- ==== Sys2Proof/Certificates/Slice0/Obligations.lean ====
section
/-! DEFINITION. The statements for the provers. Each docstring names the rule of spec/ it formalises. -/

open Sys2Proof Sys2Proof.Machine Host

/-! ## Reset and the invariant -/

/-- The state after reset meets the invariant. -/
def Obligations.ResetStateMeetsInvariant : Prop := Inv State.reset

/-- Every step from a state that meets the invariant leads to one that meets it (10_state.md R43 to R46 and the rules
`Inv` names). -/
def Obligations.StepKeepsInvariant : Prop := ∀ s t : State, Inv s → step s = .next t → Inv t

/-- RESET (70_reset_and_hazards.md R200, R201): in every state, halted or not, every register takes the value R201
gives, the configuration is sampled, and the three errors are raised and reported in order. -/
def Obligations.ResetRestoresEveryRegister : Prop :=
  SelectedBy 0xFF00 0x0100 (fun _ => .reset) ∧
  ∀ s : State, exec .reset s = .next
    { s with
      regs :=
        { active := false, streamOpen := false, cursor := 0, totalLen := 0, justFinished := false,
          rawLevel := false, debLevel := false, lastChange := 0, fsm := .idle, startReq := false,
          srcKind := if s.straps.cfg.toneEn then .fixedTone else if s.straps.cfg.liveEn then .liveInput else .silence,
          phaseQ := 0, duty := 0, pwmCnt := 0, dutyActive := 0, halted := !s.straps.cfg.coreOk }
      cfg := s.straps.cfg
      errors := s.errors ++ (if s.straps.cfg.coreOk = false then [.coreInitFailure] else []) ++
        (if s.straps.cfg.storageOk = false then [.initializationFailure] else []) ++
        (if s.straps.mismatchTolHz < |s.straps.carrierHzActual - 40000| then [.configurationMismatch] else [])
      trace := s.trace ++ (if s.straps.cfg.coreOk = false then [.fatal] else []) ++
        (if s.straps.cfg.storageOk = false then [.storageInitFailed] else []) ++
        (if s.straps.mismatchTolHz < |s.straps.carrierHzActual - 40000| then [.mismatchWarning] else []) }

/-- A halted block performs nothing but RESET (60_exceptions.md R180). -/
def Obligations.HaltedBlockIgnoresAllButReset : Prop :=
  ∀ (i : Instr) (s : State), s.regs.halted = true → i ≠ .reset → exec i s = .next s

/-- A halted block keeps the carrier off (60_exceptions.md R180: `duty` and `duty_active` stay at SILENCE_BYTE). -/
def Obligations.HaltedBlockKeepsCarrierOff : Prop :=
  ∀ s : State, Inv s → s.regs.halted = true → s.regs.duty = 0 ∧ s.regs.dutyActive = 0 ∧ s.carrierOut = false

/-! ## The PWM generator, the outputs -/

/-- PWMCLK (43_modulation.md R163): the counter counts modulo 256; the wrap loads `duty_active`. -/
def Obligations.PwmclkCountsAndLoadsShadow : Prop :=
  SelectedBy 0xFF80 0x0080 (fun _ => .pwmclk) ∧
  ∀ s : State, s.running → exec .pwmclk s = .next
    { s with regs :=
      { s.regs with
        dutyActive := if s.regs.pwmCnt.toNat = 255 then s.regs.duty else s.regs.dutyActive
        pwmCnt := BitVec.ofNat 8 ((s.regs.pwmCnt.toNat + 1) % 256) } }

/-- One carrier period (43_modulation.md R160 to R162): from a count of 0, over 256 PWMCLK steps the output is high in
exactly `duty_active` of the states, after which the count is 0 again and `duty` has become `duty_active`. -/
def Obligations.CarrierHighCountPerPeriod : Prop :=
  ∀ s : State, s.running → s.regs.pwmCnt = 0 →
    (trail (List.replicate 256 .pwmclk) s).length = 256 ∧
    (trail (List.replicate 256 .pwmclk) s).countP State.carrierOut = s.regs.dutyActive.toNat ∧
    execAll (List.replicate 256 .pwmclk) s = .next { s with regs := { s.regs with dutyActive := s.regs.duty } }

/-- The output ports and the views STATUS and CFG (10_state.md R40, R41, R42; 43_modulation.md R161, R165; 41_playback.md
R120): in every state each port and each bit of the two words is the register or configuration bit the spec names. -/
def Obligations.OutputsFollowRegisters : Prop :=
  ∀ s : State,
    (s.carrierOut = true ↔ s.regs.pwmCnt.toNat < s.regs.dutyActive.toNat) ∧
    (s.cfg.statusEn = true → s.statusLevel = some s.regs.active) ∧
    (s.cfg.statusEn = false → s.statusLevel = none) ∧
    s.isActive = s.regs.active ∧
    s.startReqOut = s.regs.startReq ∧
    s.dutyOut = s.regs.duty ∧
    s.memAddr = s.regs.cursor ∧
    (cfgWord s.cfg).getLsbD 0 = s.cfg.liveEn ∧
    (cfgWord s.cfg).getLsbD 1 = s.cfg.toneEn ∧
    (cfgWord s.cfg).getLsbD 2 = s.cfg.statusEn ∧
    (cfgWord s.cfg).getLsbD 3 = s.cfg.storageOk ∧
    (cfgWord s.cfg).getLsbD 4 = s.cfg.coreOk ∧
    s.statusWord.getLsbD 0 = s.regs.active ∧
    s.statusWord.getLsbD 1 = s.regs.justFinished ∧
    s.statusWord.getLsbD 2 = s.regs.startReq ∧
    s.statusWord.getLsbD 3 = s.regs.debLevel ∧
    s.statusWord.getLsbD 4 = s.regs.rawLevel ∧
    s.statusWord.extractLsb' 5 2 = triggerStateCode s.regs.fsm ∧
    s.statusWord.extractLsb' 7 2 = sourceKindCode s.regs.srcKind

/-- The two brightness levels (00_scope.md R6, 43_modulation.md R165): where the status output is present it shows the
"playing" level during a session and the "ready" level otherwise, and the first is the brighter of the two. -/
def Obligations.StatusIsBrighterWhilePlaying : Prop :=
  (∀ s : State, s.cfg.statusEn = true → s.regs.active = true →
    s.statusBrightness = some s.params.statusPlayingLevel) ∧
  (∀ s : State, s.cfg.statusEn = true → s.regs.active = false →
    s.statusBrightness = some s.params.statusReadyLevel) ∧
  (∀ s : State, s.cfg.statusEn = false → s.statusBrightness = none) ∧
  (∀ s : State, Inv s → s.params.statusReadyLevel < s.params.statusPlayingLevel)

/-! ## The sources and the TICK operations -/

/-- The tone function is the rounded sine (40_sample_sources.md R93, R96): at every phase below NQ its value differs from
`128 + 127 * sin(2π * q / 200)` by less than one half, so every rounding to nearest gives it. -/
def Obligations.ToneIsRoundedSine : Prop :=
  ∀ q : Phase, q.toNat < 200 → ∃ b : Byte, tone q = some b ∧
    |127 * Real.sin (2 * Real.pi * (q.toNat : ℝ) / 200) - ((b.toNat : ℝ) - 128)| < 1 / 2

/-- The forty values of 20_memory.md R55. -/
def Obligations.ToneTableOfDefaultPhases : Prop :=
  (List.range 40).map (fun j => tone (BitVec.ofNat 8 (5 * j))) =
    ([128, 148, 167, 186, 203, 218, 231, 241, 249, 253, 255, 253, 249, 241, 231, 218, 203, 186, 167, 148,
      128, 108, 89, 70, 53, 38, 25, 15, 7, 3, 1, 3, 7, 15, 25, 38, 53, 70, 89, 108] : List Byte).map some

/-- TICK.TONE (43_modulation.md R154, 40_sample_sources.md R92, R94): the sample is that of the phase before the
increment. Where R93 gives no value (a phase of NQ or more, which no step produces) the byte is a free value of the
model (log entry 9) and every other effect is the same. -/
def Obligations.TickToneSamplesThenAdvances : Prop :=
  SelectedBy 0xFF0E 0x000A (fun _ => .tickTone) ∧
  ∀ s : State, s.running →
    (∀ b : Byte, tone s.regs.phaseQ = some b → exec .tickTone s = .next
      { s with
        regs := { s.regs with
          duty := b, srcKind := .fixedTone, phaseQ := BitVec.ofNat 8 ((s.regs.phaseQ.toNat + 5) % 200) }
        dutyWrites := s.dutyWrites ++ [b] }) ∧
    (tone s.regs.phaseQ = none → ∃ b : Byte, exec .tickTone s = .next
      { s with
        regs := { s.regs with
          duty := b, srcKind := .fixedTone, phaseQ := BitVec.ofNat 8 ((s.regs.phaseQ.toNat + 5) % 200) }
        dutyWrites := s.dutyWrites ++ [b]
        freeDraws := s.freeDraws + 1 })

/-- From phase 0, `n` TICK.TONE operations write the 40-sample cycle over and over and leave the phase at
`5 * (n mod 40)` (40_sample_sources.md R95). -/
def Obligations.ToneRepeatsEveryFortyTicks : Prop :=
  ∀ (n : Nat) (s : State), s.running → s.regs.phaseQ = 0 →
    ∃ t : State, execAll (List.replicate n .tickTone) s = .next t ∧
      t.regs.phaseQ.toNat = 5 * (n % 40) ∧
      t.dutyWrites.map some =
        s.dutyWrites.map some ++ (List.range n).map (fun i => tone (BitVec.ofNat 8 (5 * (i % 40))))

/-- TICK.LIVE (43_modulation.md R155, 40_sample_sources.md R98): the top eight of the twelve bits. -/
def Obligations.TickLiveWritesTopEightBits : Prop :=
  SelectedBy 0xFF0F 0x0009 (fun e => .tickLive (e.extractLsb' 33 12)) ∧
  ∀ (adc : AdcSample) (s : State), s.running → exec (.tickLive adc) s = .next
    { s with
      regs := { s.regs with duty := BitVec.ofNat 8 (adc.toNat / 16), srcKind := .liveInput }
      dutyWrites := s.dutyWrites ++ [BitVec.ofNat 8 (adc.toNat / 16)] }

/-- TICK.SILENCE (43_modulation.md R156, 40_sample_sources.md R91). -/
def Obligations.TickSilenceWritesZero : Prop :=
  SelectedBy 0xFF0F 0x0008 (fun _ => .tickSilence) ∧
  ∀ s : State, s.running → exec .tickSilence s = .next
    { s with regs := { s.regs with duty := 0, srcKind := .silence }, dutyWrites := s.dutyWrites ++ [0] }

/-- TICK.FILE with bytes left and a read that succeeds (43_modulation.md R153, 41_playback.md R116). -/
def Obligations.TickFileDeliversNextByte : Prop :=
  SelectedBy 0xFF0C 0x000C (fun e => .tickFile (e.getLsbD 45)) ∧
  ∀ (s : State) (b : Byte), s.running → s.regs.cursor.toNat < s.regs.totalLen.toNat →
    s.resource.read s.regs.cursor = some b →
    exec (.tickFile false) s = .next
      { s with
        regs := { s.regs with duty := b, srcKind := .fileStream, cursor := s.regs.cursor + 1 }
        dutyWrites := s.dutyWrites ++ [b] }

/-- TICK.FILE with the stream exhausted, or with a failed read (41_playback.md R116, R117, R119; 60_exceptions.md R184 b):
the session ends, the cursor stays, silence is written; the error is raised only if bytes were left. -/
def Obligations.TickFileEndsSession : Prop :=
  ∀ (rdfail : Bool) (s : State), s.running →
    (s.regs.totalLen.toNat ≤ s.regs.cursor.toNat ∨ rdfail = true) →
    exec (.tickFile rdfail) s = .next
      { s with
        regs := { s.regs with
          duty := 0, srcKind := .fileStream, active := false, streamOpen := false, justFinished := true }
        dutyWrites := s.dutyWrites ++ [0]
        errors := s.errors ++
          (if s.regs.cursor.toNat < s.regs.totalLen.toNat then [.streamReadFailure] else []) }

/-- Every TICK operation answers a next state in every state and for every operand, emits nothing, raises nothing but
StreamReadFailure, and, unless halted, writes `duty` exactly once (43_modulation.md R157, R159; 60_exceptions.md R181). -/
def Obligations.TicksNeverFail : Prop :=
  ∀ (i : Instr) (s : State), isTick i = true →
    ∃ t : State, exec i s = .next t ∧ t.trace = s.trace ∧
      (t.errors = s.errors ∨ t.errors = s.errors ++ [.streamReadFailure]) ∧
      (s.running → t.dutyWrites = s.dutyWrites ++ [t.regs.duty])

/-- A whole session (41_playback.md R118, R123): a START strobe with a resource bound, then tick strobes without a read
failure, as many as the resource has bytes, and one more, with any POLL, START, ACKFIN and PWMCLK strobes between them,
write the resource's bytes in order and then SILENCE_BYTE, whatever the configuration's fallback, and end the session. -/
def Obligations.SessionReplaysResource : Prop :=
  ∀ (s : State) (l rest : List Stimulus) (o₀ o₁ : Operands),
    s.running → s.regs.active = false → s.cfg.storageOk = true → s.resource.present = true →
    (∀ x ∈ l, ∃ o : Operands, o.rdfail = false ∧
      (x = .strobes { tick := true } o ∨ x = .strobes { pwmClk := true } o ∨ x = .strobes { poll := true } o ∨
        x = .strobes { start := true } o ∨ x = .strobes { ackfin := true } o)) →
    l.countP isTickStrobe = s.resource.len.toNat →
    o₁.rdfail = false →
    s.schedule = .strobes { start := true } o₀ :: (l ++ .strobes { tick := true } o₁ :: rest) →
    ∃ t : State, Host.Core.run Sys2Proof.core (l.length + 2) s = .next t ∧
      t.dutyWrites = s.dutyWrites ++ (List.range s.resource.len.toNat).map (Memory.read s.resource.mem) ++ [0] ∧
      t.regs.active = false ∧ t.regs.streamOpen = false ∧ t.regs.cursor = s.resource.len ∧
      t.regs.justFinished = true ∧ t.schedule = rest

/-! ## The playback controller -/

/-- START while a session is active (41_playback.md R112): nothing but `start_req` is written, and that is already 0
wherever the invariant holds. -/
def Obligations.StartWhileActiveIsNoop : Prop :=
  ∀ s : State, s.running → s.regs.active = true →
    exec .start s = .next { s with regs := { s.regs with startReq := false } } ∧ (Inv s → exec .start s = .next s)

/-- START without a resource (41_playback.md R113; 60_exceptions.md R176). -/
def Obligations.StartFailsWithoutResource : Prop :=
  ∀ s : State, s.running → s.regs.active = false → s.resource.present = false →
    exec .start s = .next
      { s with
        regs := { s.regs with startReq := false }
        errors := s.errors ++ [.resourceNotFound]
        trace := s.trace ++ [.notFound] }

/-- START without storage fails in the same way, whether or not a resource is bound (41_playback.md R114, a decision of
the spec's). -/
def Obligations.StartFailsWithoutStorage : Prop :=
  ∀ s : State, s.running → s.regs.active = false → s.cfg.storageOk = false →
    exec .start s = .next
      { s with
        regs := { s.regs with startReq := false }
        errors := s.errors ++ [.resourceNotFound]
        trace := s.trace ++ [.notFound] }

/-- START that opens a session (41_playback.md R111). -/
def Obligations.StartOpensSession : Prop :=
  SelectedBy 0xFF20 0x0020 (fun _ => .start) ∧
  ∀ s : State, s.running → s.regs.active = false → s.resource.present = true → s.cfg.storageOk = true →
    exec .start s = .next
      { s with
        regs := { s.regs with
          startReq := false, totalLen := s.resource.len, cursor := 0, streamOpen := true, active := true }
        trace := s.trace ++ [.started s.resource.len] }

/-- ACKFIN (41_playback.md R121). -/
def Obligations.AckfinReportsOnce : Prop :=
  SelectedBy 0xFF40 0x0040 (fun _ => .ackfin) ∧
  ∀ s : State, s.running → exec .ackfin s = .next
    { s with
      regs := { s.regs with justFinished := false }
      trace := s.trace ++ (if s.regs.justFinished then [.finished] else []) }

/-- NOP changes nothing (43_modulation.md R166). -/
def Obligations.NopChangesNothing : Prop :=
  SelectedBy 0xFFF8 0x0000 (fun _ => .nop) ∧ ∀ s : State, exec .nop s = .next s

/-! ## The trigger detector -/

/-- POLL that sees a raw-level change (42_trigger.md R131, R133; 30_encoding.md R76). -/
def Obligations.PollRecordsRawChange : Prop :=
  SelectedBy 0xFF10 0x0010 (fun e => .poll (e.getLsbD 32) (e.extractLsb' 0 32)) ∧
  ∀ (pin : Bool) (now : Millis) (s : State), s.running → (!pin) ≠ s.regs.rawLevel →
    exec (.poll pin now) s = .next
      { s with regs := { s.regs with
          rawLevel := !pin
          lastChange := now
          fsm := if (!pin) ≠ s.regs.debLevel then .debouncing else .idle } }

/-- POLL that confirms a level (42_trigger.md R134, R135, R136, R137): a rising edge requests a start only while no session
is active; a falling edge requests nothing. -/
def Obligations.PollConfirmsStableLevel : Prop :=
  ∀ (pin : Bool) (now : Millis) (s : State), s.running → (!pin) = s.regs.rawLevel →
    s.regs.rawLevel ≠ s.regs.debLevel → Stable s now →
    exec (.poll pin now) s = .next
      { s with regs := { s.regs with
          debLevel := s.regs.rawLevel
          fsm := .confirmed
          startReq := s.regs.startReq || (s.regs.rawLevel && !s.regs.active) } }

/-- POLL that neither sees a change nor confirms (42_trigger.md R131, R138) writes `fsm` only. -/
def Obligations.PollOtherwiseNamesState : Prop :=
  ∀ (pin : Bool) (now : Millis) (s : State), s.running → (!pin) = s.regs.rawLevel →
    (s.regs.rawLevel = s.regs.debLevel ∨ ¬Stable s now) →
    exec (.poll pin now) s = .next
      { s with regs := { s.regs with
          fsm := if s.regs.rawLevel ≠ s.regs.debLevel then .debouncing else .idle } }

/-- The reachable transitions of `fsm` (42_trigger.md R138): Confirmed is entered from Debouncing only. -/
def Obligations.ConfirmedEnteredFromDebouncingOnly : Prop :=
  ∀ (pin : Bool) (now : Millis) (s t : State), Inv s → s.running → exec (.poll pin now) s = .next t →
    (s.regs.fsm, t.regs.fsm) ∈
      [(TriggerState.idle, TriggerState.idle), (.idle, .debouncing), (.debouncing, .debouncing), (.debouncing, .idle),
       (.debouncing, .confirmed), (.confirmed, .idle), (.confirmed, .debouncing)]

/-- A burst confirms nothing (42_trigger.md R140 a): POLLs at times that do not run backwards and lie within one debounce
window leave the confirmed level and the request as they were, whatever levels they see, if the line was quiet before. -/
def Obligations.BurstConfirmsNothing : Prop :=
  ∀ (s : State) (t0 : Nat) (polls : List (Bool × Nat)),
    s.running → s.regs.rawLevel = s.regs.debLevel →
    polls.Pairwise (fun a b => a.2 ≤ b.2) →
    (∀ p ∈ polls, t0 ≤ p.2 ∧ p.2 ≤ t0 + (if s.params.confirmAtEqual then 49 else 50) ∧ p.2 < 2 ^ 32) →
    ∃ t : State,
      execAll (polls.map (fun p => .poll p.1 (BitVec.ofNat 32 p.2))) s = .next t ∧
      t.regs.debLevel = s.regs.debLevel ∧ t.regs.startReq = s.regs.startReq

/-- A stable level is confirmed once (42_trigger.md R140 b): once a level that differs from the confirmed one has been
recorded, any POLLs that see it unchanged leave the confirmed level flipped if and only if one of them came after the
window, and the request is that of one edge. -/
def Obligations.StableLevelConfirmedOnce : Prop :=
  ∀ (s : State) (times : List Millis),
    s.running → s.regs.rawLevel ≠ s.regs.debLevel →
    ∃ t : State, execAll (times.map (fun x => .poll (!s.regs.rawLevel) x)) s = .next t ∧
      ((∃ x ∈ times, Stable s x) →
        t.regs.debLevel = s.regs.rawLevel ∧
        t.regs.startReq = (s.regs.startReq || (s.regs.rawLevel && !s.regs.active))) ∧
      ((¬∃ x ∈ times, Stable s x) → t.regs.debLevel = s.regs.debLevel ∧ t.regs.startReq = s.regs.startReq)

/-- A main-loop pass (30_encoding.md R87, 70_reset_and_hazards.md R217): its POLL, then START exactly when that POLL left a
request, then ACKFIN, with nothing in between (the model's choice for this stimulus, log entry 14); afterwards no request and no
finished flag is pending. -/
def Obligations.PassAnswersEveryRequest : Prop :=
  ∀ (s p : State) (pin : Bool) (now : Millis) (rest : List Stimulus),
    s.running → s.schedule = .pass pin now :: rest →
    exec (.poll pin now) { s with schedule := rest } = .next p →
    Host.Core.run Sys2Proof.core (if p.regs.startReq then 3 else 2) s =
      execAll (if p.regs.startReq then [.start, .ackfin] else [.ackfin]) p ∧
    ∃ t : State, execAll (if p.regs.startReq then [.start, .ackfin] else [.ackfin]) p = .next t ∧
      t.regs.startReq = false ∧ t.regs.justFinished = false ∧ t.schedule = rest

/-! ## What the operations leave alone -/

/-- The frame of TICK.FILE: `duty`, `src_kind`, `cursor`, `active`, `stream_open` and `just_finished` may change. -/
def Obligations.FileTickFrame : Prop :=
  ∀ (rdfail : Bool) (s t : State), exec (.tickFile rdfail) s = .next t →
    SameSurroundings s t ∧ t.trace = s.trace ∧
    t.regs = { s.regs with
      duty := t.regs.duty, srcKind := t.regs.srcKind, cursor := t.regs.cursor, active := t.regs.active,
      streamOpen := t.regs.streamOpen, justFinished := t.regs.justFinished }

/-- The frame of the fallback ticks: `duty`, `src_kind` and, for TICK.TONE alone, `phase_q` may change. -/
def Obligations.FallbackTickFrame : Prop :=
  ∀ (i : Instr) (s t : State), (i = .tickTone ∨ i = .tickSilence ∨ ∃ adc, i = .tickLive adc) → exec i s = .next t →
    SameSurroundings s t ∧ t.trace = s.trace ∧ t.errors = s.errors ∧
    (i ≠ .tickTone → t.regs.phaseQ = s.regs.phaseQ) ∧
    t.regs = { s.regs with duty := t.regs.duty, srcKind := t.regs.srcKind, phaseQ := t.regs.phaseQ }

/-- The frames of the main loop's operations (10_state.md R49; 42_trigger.md R144 for POLL). -/
def Obligations.MainLoopFrames : Prop :=
  (∀ (pin : Bool) (now : Millis) (s t : State), exec (.poll pin now) s = .next t →
    SameSurroundings s t ∧ t.trace = s.trace ∧ t.errors = s.errors ∧ t.dutyWrites = s.dutyWrites ∧
    t.regs = withTrigger s.regs (triggerOf t.regs)) ∧
  (∀ s t : State, exec .start s = .next t →
    SameSurroundings s t ∧ t.dutyWrites = s.dutyWrites ∧
    t.regs = { s.regs with
      startReq := t.regs.startReq, totalLen := t.regs.totalLen, cursor := t.regs.cursor,
      streamOpen := t.regs.streamOpen, active := t.regs.active }) ∧
  (∀ s t : State, exec .ackfin s = .next t →
    SameSurroundings s t ∧ t.errors = s.errors ∧ t.dutyWrites = s.dutyWrites ∧
    t.regs = { s.regs with justFinished := t.regs.justFinished })

/-- The frames of PWMCLK and RESET: PWMCLK touches its own two registers (60_exceptions.md R187); RESET leaves the
surroundings but the sampled configuration, and records no duty write. -/
def Obligations.PwmclkAndResetFrames : Prop :=
  (∀ s t : State, exec .pwmclk s = .next t →
    SameSurroundings s t ∧ t.trace = s.trace ∧ t.errors = s.errors ∧ t.dutyWrites = s.dutyWrites ∧
    t.regs = { s.regs with pwmCnt := t.regs.pwmCnt, dutyActive := t.regs.dutyActive }) ∧
  (∀ s t : State, exec .reset s = .next t →
    t.straps = s.straps ∧ t.params = s.params ∧ t.resource = s.resource ∧ t.schedule = s.schedule ∧
    (∀ off : Offset, t.resource.read off = s.resource.read off) ∧
    t.dutyWrites = s.dutyWrites ∧ t.freeDraws = s.freeDraws)

/-- Who may write which register, and in which direction, over all operations (10_state.md R39, R49, R21; 43_modulation.md
R157, R167; 40_sample_sources.md R97; RESET writes all). `active` and `stream_open` are set only by a START that
succeeds and cleared only by TICK.FILE; the levels, the timestamp and the state of the trigger detector are POLL's
alone; `start_req` is set by POLL and cleared by START. -/
def Obligations.WritersOfEachRegister : Prop :=
  ∀ (i : Instr) (s t : State), exec i s = .next t → i ≠ .reset →
    (t.regs.duty ≠ s.regs.duty → isTick i = true) ∧
    (t.regs.srcKind ≠ s.regs.srcKind → isTick i = true) ∧
    (t.regs.phaseQ ≠ s.regs.phaseQ → i = .tickTone) ∧
    (t.regs.active ≠ s.regs.active →
      (i = .start ∧ t.regs.active = true ∧ s.resource.present = true ∧ s.cfg.storageOk = true) ∨
      ((∃ f, i = .tickFile f) ∧ t.regs.active = false)) ∧
    (t.regs.streamOpen ≠ s.regs.streamOpen →
      (i = .start ∧ t.regs.streamOpen = true ∧ s.regs.active = false ∧ s.resource.present = true ∧
        s.cfg.storageOk = true) ∨
      ((∃ f, i = .tickFile f) ∧ t.regs.streamOpen = false)) ∧
    (t.regs.cursor ≠ s.regs.cursor → (i = .start ∧ t.regs.cursor = 0 ∧ s.regs.active = false) ∨
      ((∃ f, i = .tickFile f) ∧ t.regs.cursor = s.regs.cursor + 1)) ∧
    (t.regs.totalLen ≠ s.regs.totalLen → i = .start ∧ s.regs.active = false) ∧
    (t.regs.justFinished ≠ s.regs.justFinished → (i = .ackfin ∧ t.regs.justFinished = false) ∨
      ((∃ f, i = .tickFile f) ∧ t.regs.justFinished = true)) ∧
    (t.regs.startReq ≠ s.regs.startReq → (i = .start ∧ t.regs.startReq = false) ∨
      ((∃ p n, i = .poll p n) ∧ t.regs.startReq = true ∧ s.regs.active = false)) ∧
    (t.regs.rawLevel ≠ s.regs.rawLevel → ∃ p n, i = .poll p n) ∧
    (t.regs.debLevel ≠ s.regs.debLevel → ∃ p n, i = .poll p n) ∧
    (t.regs.lastChange ≠ s.regs.lastChange → ∃ p n, i = .poll p n) ∧
    (t.regs.fsm ≠ s.regs.fsm → ∃ p n, i = .poll p n) ∧
    (t.regs.pwmCnt ≠ s.regs.pwmCnt → i = .pwmclk) ∧
    (t.regs.dutyActive ≠ s.regs.dutyActive → i = .pwmclk) ∧
    t.regs.halted = s.regs.halted

/-- Ticks neither read nor write the trigger detector (42_trigger.md R130, 20_memory.md R62 b): run on a block with other
trigger registers, a TICK does the same and leaves them as they are. -/
def Obligations.TicksIgnoreTriggerRegisters : Prop :=
  ∀ (i : Instr) (s t : State) (tr : TriggerRegs), isTick i = true → exec i s = .next t →
    exec i { s with regs := withTrigger s.regs tr } = .next { t with regs := withTrigger t.regs tr }

/-- The free values are never drawn by a step from a state that meets the invariant: TICK.FILE reads only bytes the
resource has (20_memory.md R52), TICK.TONE only phases below NQ (10_state.md R46). The counter is the model's own (log entry 10). -/
def Obligations.FreeValuesNeverDrawnUnderInvariant : Prop :=
  ∀ s t : State, Inv s → step s = .next t → t.freeDraws = s.freeDraws

/-! ## Decoding, words, the step -/

/-- The decoder performs the selected operations in the order of 30_encoding.md R74, with the arbiter of R73, and every
record without reserved bits is of the form decoded here. -/
def Obligations.DecodeFollowsStrobesAndArbiter : Prop :=
  (∀ (st : Strobes) (w : Wires) (o : Operands),
    decode (assembleEvt (assembleOpw st w) o) = .operations (requested st w o)) ∧
  (∀ e : Evt, Evt.wellFormed e = true → ∃ (st : Strobes) (w : Wires) (o : Operands),
    e = assembleEvt (assembleOpw st w) o)

/-- Decoding an encoded operation gives it back, for all ten operations, every operand value, and every setting of the
wired bits that can select it (30_encoding.md R70 to R75, R88). -/
def Obligations.DecodeOfEncode : Prop :=
  ∀ (w : Wires) (i : Instr), i.wellFormed w = true → decode (encode w i) = .operations [i]

/-- Words written out from 30_encoding.md R88 and 95_test_vectors.md (T20, P4) decode to what they stand for. -/
def Obligations.SampleWordsDecode : Prop :=
  decode 0x0008000000000000 = .operations [.tickSilence] ∧
  decode 0x0010000000000078 = .operations [.poll false 120] ∧
  decode 0x0010000100000078 = .operations [.poll true 120] ∧
  decode 0x0020000000000000 = .operations [.start] ∧
  decode 0x000C000000000000 = .operations [.tickFile false] ∧
  decode 0x000C200000000000 = .operations [.tickFile true] ∧
  decode 0x0009157800000000 = .operations [.tickLive 0xABC] ∧
  decode 0x000A000000000000 = .operations [.tickTone] ∧
  decode 0x0007000000000000 = .operations [.nop] ∧
  decode 0x00890FE000000000 = .operations [.pwmclk, .tickLive 0x7F0] ∧
  decode 0x0040000000000000 = .operations [.ackfin] ∧
  decode 0x012C000000000000 = .operations [.reset]

/-- Reserved and impossible words are refused (30_encoding.md R83 a to c, R71), and change nothing. -/
def Obligations.ReservedWordsRefused : Prop :=
  ∀ (s : State) (e : Evt) (rest : List Stimulus), s.schedule = .event e :: rest →
    (Evt.opw e &&& 0xFE00 ≠ 0 → step s = .refused .opwReserved) ∧
    (Evt.opw e &&& 0xFE00 = 0 → e.extractLsb' 46 2 ≠ 0 → step s = .refused .recordReserved) ∧
    (Evt.wellFormed e = true → (Evt.opw e).getLsbD 2 ≠ s.regs.active → step s = .refused .wiresDisagree) ∧
    (Evt.wellFormed e = true → (Evt.opw e).getLsbD 8 = false →
      ((Evt.opw e).getLsbD 1 ≠ s.cfg.toneEn ∨ (Evt.opw e).getLsbD 0 ≠ s.cfg.liveEn) → step s = .refused .wiresDisagree)

/-- A step runs the decoded operations: a record that decodes to `ops` and agrees with the block's wired bits is taken off
the schedule and its operations are performed in order; for one operation the step is exec of it. -/
def Obligations.StepRunsDecodedOperations : Prop :=
  ∀ (s : State) (e : Evt) (rest : List Stimulus) (ops : List Instr),
    s.schedule = .event e :: rest → decode e = .operations ops → Evt.wires e = s.wires (Evt.rst e) →
    step s = execAll ops { s with schedule := rest } ∧
    (∀ i : Instr, ops = [i] → step s = exec i { s with schedule := rest })

/-- A strobe stimulus runs what its strobes request under the block's own wired bits (30_encoding.md R71, R74); with
nothing scheduled a step changes nothing (the model's choice, log entry 2). -/
def Obligations.StepRunsRequestedOperations : Prop :=
  (∀ (s : State) (st : Strobes) (o : Operands) (rest : List Stimulus), s.schedule = .strobes st o :: rest →
    step s = execAll (requested st (s.wires st.rst) o) { s with schedule := rest }) ∧
  (∀ s : State, s.schedule = [] → step s = .next s)

/-- Coincident strobes (30_encoding.md R74): one word with several strobes has exactly the effect of its strobes presented
one by one, in consecutive words, in the order PWMCLK, TICK, POLL, START, ACKFIN. -/
def Obligations.CoincidentStrobesEqualConsecutive : Prop :=
  ∀ (s : State) (st : Strobes) (o : Operands) (rest : List Stimulus),
    st.rst = false → singleStrobes st ≠ [] → s.schedule = .strobes st o :: rest →
    Host.Core.run Sys2Proof.core (singleStrobes st).length
      { s with schedule := (singleStrobes st).map (fun x => .strobes x o) ++ rest } = step s

/-! ## The resource and the straps -/

/-- Binding bytes while no session is active (20_memory.md R50, R68, 30_encoding.md R86): the resource is present, has
their number as its length, reads them back at their offsets, and has no other byte. -/
def Obligations.BoundBytesReadBack : Prop :=
  ∀ (s : State) (bytes : List Byte) (rest : List Stimulus),
    s.schedule = .bindBytes bytes :: rest → s.regs.active = false → bytes.length < 2 ^ 32 →
    ∃ r : Resource, step s = .next { s with schedule := rest, resource := r } ∧
      r.present = true ∧ r.len.toNat = bytes.length ∧ Resource.wf r = true ∧
      ∀ off : Offset, r.read off = bytes[off.toNat]?

/-- Binding no resource while no session is active (20_memory.md R68, 30_encoding.md R86): the resource is absent and has
no byte, and nothing else changes. -/
def Obligations.AbsentBindingLeavesNoByte : Prop :=
  ∀ (s : State) (rest : List Stimulus), s.schedule = .bindAbsent :: rest → s.regs.active = false →
    ∃ r : Resource, step s = .next { s with schedule := rest, resource := r } ∧
      r.present = false ∧ Resource.wf r = true ∧ ∀ off : Offset, r.read off = none

/-- A change of straps changes the straps alone and leaves the configuration in force and every register as they are. That
the straps are data which a stimulus may change at any time is the model's choice (log entry 23): the spec takes the
configuration as no mutable state (70_reset_and_hazards.md R202) and lets a `.cfg` line set it for the next RESET
(30_encoding.md R86). -/
def Obligations.StrapsWaitForReset : Prop :=
  ∀ (s : State) (straps : Straps) (rest : List Stimulus), s.schedule = .setStraps straps :: rest →
    step s = .next { s with schedule := rest, straps := straps }

/-- The configuration is sampled at RESET and constant until the next RESET (70_reset_and_hazards.md R202, 10_state.md
R40): whatever a step does, the configuration in force stays, unless the step leaves every register at its reset value
under the straps, which are then the configuration. The open parameters never change. That the straps change, and by a
change of straps alone, is the model's choice (log entry 23). -/
def Obligations.ConfigurationConstantBetweenResets : Prop :=
  ∀ s t : State, step s = .next t →
    (t.cfg = s.cfg ∨ (t.cfg = s.straps.cfg ∧ t.regs = resetRegs s.straps.cfg)) ∧ t.params = s.params ∧
    (t.straps = s.straps ∨ ∃ rest, s.schedule = .setStraps t.straps :: rest)

/-- The resource is constant while a session is active (20_memory.md R65), and at all times its bytes change by a binding
alone (R53: the block never writes it). -/
def Obligations.ResourceConstantDuringSession : Prop :=
  ∀ s t : State, step s = .next t →
    (s.regs.active = true → t.resource = s.resource) ∧
    (t.resource = s.resource ∨
      (∃ bytes rest, s.schedule = .bindBytes bytes :: rest) ∨ ∃ rest, s.schedule = .bindAbsent :: rest)

/-- While a session is active no binding is admitted (20_memory.md R65), and none of 2^32 bytes or more ever (R50). -/
def Obligations.BindingRefused : Prop :=
  ∀ (s : State) (bytes : List Byte) (rest : List Stimulus),
    (s.schedule = .bindBytes bytes :: rest → 2 ^ 32 ≤ bytes.length → step s = .refused .resourceTooLong) ∧
    (s.schedule = .bindBytes bytes :: rest → bytes.length < 2 ^ 32 → s.regs.active = true →
      step s = .refused .rebindWhileActive) ∧
    (s.schedule = .bindAbsent :: rest → s.regs.active = true → step s = .refused .rebindWhileActive)
end

