-- ==== Sys2Proof/Laws/Decode.lean ====
section
/-! SUPPORT. The decoder on assembled records: each field is read back, and the operations selected are those requested
(30_encoding.md R70 to R75). -/

namespace Sys2Proof.Machine

theorem opw_assembleEvt (opw : Opw) (o : Operands) : Evt.opw (assembleEvt opw o) = opw := by
  ext i hi
  simp only [Evt.opw, assembleEvt, BitVec.getElem_extractLsb', BitVec.getLsbD_append]
  have h : ¬ 48 + i < 32 := by omega
  have h1 : ¬ 48 + i - 32 < 1 := by omega
  have h2 : ¬ 48 + i - 32 - 1 < 12 := by omega
  have h3 : ¬ 48 + i - 32 - 1 - 12 < 1 := by omega
  have h4 : ¬ 48 + i - 32 - 1 - 12 - 1 < 2 := by omega
  have h5 : 48 + i - 32 - 1 - 12 - 1 - 2 = i := by omega
  simp [h, h1, h2, h3, h4, h5, BitVec.getLsbD_eq_getElem hi]

theorem recordReserved_assembleEvt (opw : Opw) (o : Operands) : (assembleEvt opw o).extractLsb' 46 2 = 0#2 := by
  ext i hi
  simp only [assembleEvt, BitVec.getElem_extractLsb', BitVec.getLsbD_append]
  have h : ¬ 46 + i < 32 := by omega
  have h1 : ¬ 46 + i - 32 < 1 := by omega
  have h2 : ¬ 46 + i - 32 - 1 < 12 := by omega
  have h3 : ¬ 46 + i - 32 - 1 - 12 < 1 := by omega
  have h4 : 46 + i - 32 - 1 - 12 - 1 < 2 := by omega
  simp [h, h1, h2, h3, h4]

theorem rdfail_assembleEvt (opw : Opw) (o : Operands) : Evt.rdfail (assembleEvt opw o) = o.rdfail := by
  simp only [Evt.rdfail, assembleEvt, BitVec.getLsbD_append]
  simp [bit]

theorem adc_assembleEvt (opw : Opw) (o : Operands) : Evt.adc (assembleEvt opw o) = o.adc := by
  ext i hi
  simp only [Evt.adc, assembleEvt, BitVec.getElem_extractLsb', BitVec.getLsbD_append]
  have h : ¬ 33 + i < 32 := by omega
  have h1 : ¬ 33 + i - 32 < 1 := by omega
  have h2 : 33 + i - 32 - 1 < 12 := by omega
  have h3 : 33 + i - 32 - 1 = i := by omega
  rw [if_neg h, if_neg h1, if_pos h2, h3, BitVec.getLsbD_eq_getElem hi]

theorem pin_assembleEvt (opw : Opw) (o : Operands) : Evt.pin (assembleEvt opw o) = o.pin := by
  simp only [Evt.pin, assembleEvt, BitVec.getLsbD_append]
  simp [bit]

theorem now_assembleEvt (opw : Opw) (o : Operands) : Evt.now (assembleEvt opw o) = o.now := by
  ext i hi
  simp only [Evt.now, assembleEvt, BitVec.getElem_extractLsb', BitVec.getLsbD_append]
  simp [hi]

theorem rst_assembleEvt (st : Strobes) (w : Wires) (o : Operands) :
    Evt.rst (assembleEvt (assembleOpw st w) o) = st.rst := by
  simp only [Evt.rst, opw_assembleEvt, assembleOpw, BitVec.getLsbD_append]
  simp [bit]

theorem wires_assembleEvt (st : Strobes) (w : Wires) (o : Operands) :
    Evt.wires (assembleEvt (assembleOpw st w) o) = w := by
  simp only [Evt.wires, opw_assembleEvt, assembleOpw, BitVec.getLsbD_append]
  simp [bit]

theorem opwReservedClear_assembleOpw (st : Strobes) (w : Wires) : assembleOpw st w &&& 0xFE00#16 = 0#16 := by
  obtain ⟨a, b, c, d, e, f⟩ := st
  obtain ⟨x, y, z⟩ := w
  cases a <;> cases b <;> cases c <;> cases d <;> cases e <;> cases f <;> cases x <;> cases y <;> cases z <;> rfl

/-- The rows an assembled word selects, before operands are read: the arbiter is the decode table. -/
theorem rows_assembleOpw (st : Strobes) (w : Wires) (e : Evt) (o : Operands)
    (hr : Evt.rdfail e = o.rdfail) (ha : Evt.adc e = o.adc) (hp : Evt.pin e = o.pin) (hn : Evt.now e = o.now) :
    (opcodeTable.filter (fun row => row.selects (assembleOpw st w))).map (fun row => row.build e)
      = requested st w o := by
  obtain ⟨a, b, c, d, g, f⟩ := st
  obtain ⟨x, y, z⟩ := w
  simp only [requested, arbitrated, ← hr, ← ha, ← hp, ← hn]
  cases a <;> cases b <;> cases c <;> cases d <;> cases g <;> cases f <;> cases x <;> cases y <;> cases z <;> rfl

/-- The decoder on an assembled record. -/
theorem decode_assembleEvt (st : Strobes) (w : Wires) (o : Operands) :
    decode (assembleEvt (assembleOpw st w) o) = .operations (requested st w o) := by
  have h1 : Evt.opwReservedClear (assembleEvt (assembleOpw st w) o) = true := by
    simp [Evt.opwReservedClear, opw_assembleEvt, opwReservedClear_assembleOpw]
  have h2 : Evt.recordReservedClear (assembleEvt (assembleOpw st w) o) = true := by
    simp [Evt.recordReservedClear, recordReserved_assembleEvt]
  simp only [decode, h1, h2, if_true, selected, opw_assembleEvt]
  rw [rows_assembleOpw st w _ o (rdfail_assembleEvt _ _) (adc_assembleEvt _ _) (pin_assembleEvt _ _)
    (now_assembleEvt _ _)]

/-- RESET is requested alone or not at all (30_encoding.md R74). -/
theorem requested_reset (st : Strobes) (w : Wires) (o : Operands) :
    requested st w o = [.reset] ∨ .reset ∉ requested st w o := by
  cases hr : st.rst with
  | true => left; simp [requested, hr]
  | false =>
    right
    have ha : Instr.reset ≠ arbitrated w o := by
      unfold arbitrated
      split
      · simp
      · split
        · simp
        · split <;> simp
    simp only [requested, hr]
    cases st.pwmClk <;> cases st.tick <;> cases st.poll <;> cases st.start <;> cases st.ackfin <;> simp [ha]

theorem decode_of_wellFormed {e : Evt} (h : Evt.wellFormed e = true) : decode e = .operations (selected e) := by
  simp only [Evt.wellFormed, Bool.and_eq_true] at h
  simp [decode, h.1, h.2]

theorem wellFormed_of_decode {e : Evt} {is : List Instr} (h : decode e = .operations is) : Evt.wellFormed e = true := by
  simp only [decode] at h
  split at h
  · split at h
    · simp_all [Evt.wellFormed]
    · cases h
  · cases h

theorem mem_selected (e : Evt) (i : Instr) :
    i ∈ selected e ↔ ∃ row ∈ opcodeTable, row.selects (Evt.opw e) = true ∧ row.build e = i := by
  simp [selected, and_assoc]

/-- A row whose operation no row of another mask or pattern builds selects exactly by its mask and pattern. -/
theorem selectedBy_of_row (row : OpcodeRow) (h : row ∈ opcodeTable)
    (hu : ∀ e, ∀ r ∈ opcodeTable, r.build e = row.build e → r.mask = row.mask ∧ r.pattern = row.pattern) :
    SelectedBy row.mask row.pattern row.build := by
  intro e he
  refine ⟨_, decode_of_wellFormed he, ?_⟩
  rw [mem_selected]
  constructor
  · rintro ⟨r, hr, hs, hb⟩
    obtain ⟨h1, h2⟩ := hu e r hr hb
    simpa [OpcodeRow.selects, h1, h2] using hs
  · intro hh
    exact ⟨row, h, by simpa [OpcodeRow.selects] using hh, rfl⟩

/-- The debounce test in plain arithmetic (42_trigger.md R134, R143). -/
theorem windowPassed_iff (s : State) (now : Millis) :
    windowPassed s.params.confirmAtEqual now s.regs.lastChange = true ↔ Stable s now := by
  have e : (elapsed now s.regs.lastChange).toNat = (now.toNat + 2 ^ 32 - s.regs.lastChange.toNat) % 2 ^ 32 := by
    rw [elapsed, BitVec.toNat_sub]; congr 1; omega
  simp [windowPassed, Stable, Config.debounceMs, e]

/-- What a block sees for given strobes decodes to what they request under its wired bits. -/
theorem decode_eventFor (s : State) (st : Strobes) (o : Operands) :
    decode (s.eventFor st o) = .operations (requested st (s.wires st.rst) o) := decode_assembleEvt _ _ _

theorem wires_eventFor (s : State) (st : Strobes) (o : Operands) :
    Evt.wires (s.eventFor st o) = s.wires (Evt.rst (s.eventFor st o)) := by
  rw [State.eventFor, wires_assembleEvt, rst_assembleEvt]

/-- A strobe stimulus performs what its strobes request. -/
theorem performEvent_eventFor (s : State) (st : Strobes) (o : Operands) :
    performEvent (s.eventFor st o) s = execAll (requested st (s.wires st.rst) o) s := by
  simp only [performEvent, decode_eventFor]
  rw [if_pos (wires_eventFor s st o)]

end Sys2Proof.Machine
end

