-- ==== Sys2Proof/Laws/Memory.lean ====
section
/-! SUPPORT. The resource's canonical form is kept by binding, and the bytes bound read back (20_memory.md R50 to R52). -/

namespace Sys2Proof.Machine

theorem wfFrom_mono {m : Memory} {lo lo' : Nat} (h : lo' ≤ lo) (hm : Memory.wfFrom lo m = true) :
    Memory.wfFrom lo' m = true := by
  cases m with
  | nil => rfl
  | cons c rest =>
    obtain ⟨a, b⟩ := c
    simp only [Memory.wfFrom, Bool.and_eq_true, decide_eq_true_eq] at hm ⊢
    exact ⟨⟨by omega, hm.1.2⟩, hm.2⟩

/-- Binding bytes gives the canonical form. -/
theorem ofBytesFrom_wfFrom (bytes : List Byte) (lo : Nat) : Memory.wfFrom lo (Memory.ofBytesFrom lo bytes) = true := by
  induction bytes generalizing lo with
  | nil => rfl
  | cons b rest ih =>
    simp only [Memory.ofBytesFrom]
    split
    · exact wfFrom_mono (Nat.le_succ lo) (ih (lo + 1))
    · rename_i hb
      simp [Memory.wfFrom, hb, ih (lo + 1)]

/-- Binding bytes lists only offsets of theirs. -/
theorem ofBytesFrom_within (bytes : List Byte) (lo len : Nat) (h : lo + bytes.length ≤ len) :
    Memory.within len (Memory.ofBytesFrom lo bytes) = true := by
  induction bytes generalizing lo with
  | nil => rfl
  | cons b rest ih =>
    simp only [List.length_cons] at h
    simp only [Memory.ofBytesFrom]
    have ih' := ih (lo + 1) (by omega)
    split
    · exact ih'
    · simp only [Memory.within, List.all_cons, Bool.and_eq_true, decide_eq_true_eq]
      exact ⟨by omega, ih'⟩

theorem ofBytesFrom_read_below (bytes : List Byte) (lo off : Nat) (h : off < lo) :
    Memory.read (Memory.ofBytesFrom lo bytes) off = Memory.unlisted := by
  induction bytes generalizing lo with
  | nil => rfl
  | cons b rest ih =>
    simp only [Memory.ofBytesFrom]
    split
    · exact ih (lo + 1) (by omega)
    · simp only [Memory.read]
      rw [if_neg (by omega)]
      exact ih (lo + 1) (by omega)

/-- The bytes bound read back. -/
theorem ofBytesFrom_read (bytes : List Byte) (lo i : Nat) (h : i < bytes.length) :
    Memory.read (Memory.ofBytesFrom lo bytes) (lo + i) = bytes[i] := by
  induction bytes generalizing lo i with
  | nil => simp at h
  | cons b rest ih =>
    cases i with
    | zero =>
      simp only [Memory.ofBytesFrom, Nat.add_zero, List.getElem_cons_zero]
      split
      · rename_i hb
        rw [hb, ofBytesFrom_read_below _ _ _ (Nat.lt_succ_self lo)]
      · simp [Memory.read]
    | succ j =>
      have hj : j < rest.length := by simpa using h
      have e : lo + (j + 1) = lo + 1 + j := by omega
      simp only [Memory.ofBytesFrom, List.getElem_cons_succ, e]
      split
      · exact ih (lo + 1) j hj
      · simp only [Memory.read]
        rw [if_neg (by omega)]
        exact ih (lo + 1) j hj

theorem ofBytes_len (bytes : List Byte) (h : bytes.length < 2 ^ 32) :
    (Resource.ofBytes bytes).len.toNat = bytes.length := by
  rw [Resource.ofBytes, BitVec.toNat_ofNat, Nat.mod_eq_of_lt h]

theorem ofBytes_wf (bytes : List Byte) (h : bytes.length < 2 ^ 32) : Resource.wf (Resource.ofBytes bytes) = true := by
  simp only [Resource.wf, Bool.and_eq_true, ofBytes_len bytes h]
  exact ⟨ofBytesFrom_wfFrom bytes 0, ofBytesFrom_within bytes 0 _ (by simp)⟩

theorem absent_wf : Resource.wf Resource.absent = true := rfl

/-- What a read of a resource answers (20_memory.md R52). -/
theorem read_eq_some (r : Resource) (off : Offset) (hp : r.present = true) (h : off < r.len) :
    r.read off = some (Memory.read r.mem off.toNat) := if_pos ⟨hp, h⟩

theorem read_eq_none (r : Resource) (off : Offset) (h : ¬(r.present = true ∧ off < r.len)) : r.read off = none :=
  if_neg h

end Sys2Proof.Machine
end

