-- ==== Sys2Proof/Laws/State.lean ====
section
/-! SUPPORT. One lemma per field per update of State, true by rfl, so that no proof unfolds a record update. -/

namespace Sys2Proof.Machine

@[simp] theorem withRegs_regs (s : State) (r : Regs) : (s.withRegs r).regs = r := rfl
@[simp] theorem withRegs_cfg (s : State) (r : Regs) : (s.withRegs r).cfg = s.cfg := rfl
@[simp] theorem withRegs_straps (s : State) (r : Regs) : (s.withRegs r).straps = s.straps := rfl
@[simp] theorem withRegs_params (s : State) (r : Regs) : (s.withRegs r).params = s.params := rfl
@[simp] theorem withRegs_resource (s : State) (r : Regs) : (s.withRegs r).resource = s.resource := rfl
@[simp] theorem withRegs_schedule (s : State) (r : Regs) : (s.withRegs r).schedule = s.schedule := rfl
@[simp] theorem withRegs_trace (s : State) (r : Regs) : (s.withRegs r).trace = s.trace := rfl
@[simp] theorem withRegs_errors (s : State) (r : Regs) : (s.withRegs r).errors = s.errors := rfl
@[simp] theorem withRegs_dutyWrites (s : State) (r : Regs) : (s.withRegs r).dutyWrites = s.dutyWrites := rfl
@[simp] theorem withRegs_freeDraws (s : State) (r : Regs) : (s.withRegs r).freeDraws = s.freeDraws := rfl

@[simp] theorem raise_regs (s : State) (e : ErrorKind) : (s.raise e).regs = s.regs := rfl
@[simp] theorem raise_cfg (s : State) (e : ErrorKind) : (s.raise e).cfg = s.cfg := rfl
@[simp] theorem raise_straps (s : State) (e : ErrorKind) : (s.raise e).straps = s.straps := rfl
@[simp] theorem raise_params (s : State) (e : ErrorKind) : (s.raise e).params = s.params := rfl
@[simp] theorem raise_resource (s : State) (e : ErrorKind) : (s.raise e).resource = s.resource := rfl
@[simp] theorem raise_schedule (s : State) (e : ErrorKind) : (s.raise e).schedule = s.schedule := rfl
@[simp] theorem raise_trace (s : State) (e : ErrorKind) : (s.raise e).trace = s.trace := rfl
@[simp] theorem raise_errors (s : State) (e : ErrorKind) : (s.raise e).errors = s.errors ++ [e] := rfl
@[simp] theorem raise_dutyWrites (s : State) (e : ErrorKind) : (s.raise e).dutyWrites = s.dutyWrites := rfl
@[simp] theorem raise_freeDraws (s : State) (e : ErrorKind) : (s.raise e).freeDraws = s.freeDraws := rfl

@[simp] theorem emit_regs (s : State) (d : Diag) : (s.emit d).regs = s.regs := rfl
@[simp] theorem emit_cfg (s : State) (d : Diag) : (s.emit d).cfg = s.cfg := rfl
@[simp] theorem emit_straps (s : State) (d : Diag) : (s.emit d).straps = s.straps := rfl
@[simp] theorem emit_params (s : State) (d : Diag) : (s.emit d).params = s.params := rfl
@[simp] theorem emit_resource (s : State) (d : Diag) : (s.emit d).resource = s.resource := rfl
@[simp] theorem emit_schedule (s : State) (d : Diag) : (s.emit d).schedule = s.schedule := rfl
@[simp] theorem emit_trace (s : State) (d : Diag) : (s.emit d).trace = s.trace ++ [d] := rfl
@[simp] theorem emit_errors (s : State) (d : Diag) : (s.emit d).errors = s.errors := rfl
@[simp] theorem emit_dutyWrites (s : State) (d : Diag) : (s.emit d).dutyWrites = s.dutyWrites := rfl
@[simp] theorem emit_freeDraws (s : State) (d : Diag) : (s.emit d).freeDraws = s.freeDraws := rfl

@[simp] theorem draw_regs (s : State) : (s.draw.2).regs = s.regs := rfl
@[simp] theorem draw_cfg (s : State) : (s.draw.2).cfg = s.cfg := rfl
@[simp] theorem draw_straps (s : State) : (s.draw.2).straps = s.straps := rfl
@[simp] theorem draw_params (s : State) : (s.draw.2).params = s.params := rfl
@[simp] theorem draw_resource (s : State) : (s.draw.2).resource = s.resource := rfl
@[simp] theorem draw_schedule (s : State) : (s.draw.2).schedule = s.schedule := rfl
@[simp] theorem draw_trace (s : State) : (s.draw.2).trace = s.trace := rfl
@[simp] theorem draw_errors (s : State) : (s.draw.2).errors = s.errors := rfl
@[simp] theorem draw_dutyWrites (s : State) : (s.draw.2).dutyWrites = s.dutyWrites := rfl
@[simp] theorem draw_freeDraws (s : State) : (s.draw.2).freeDraws = s.freeDraws + 1 := rfl

@[simp] theorem pwmWrite_regs (s : State) (b : Byte) : (s.pwmWrite b).regs = { s.regs with duty := b } := rfl
@[simp] theorem pwmWrite_cfg (s : State) (b : Byte) : (s.pwmWrite b).cfg = s.cfg := rfl
@[simp] theorem pwmWrite_straps (s : State) (b : Byte) : (s.pwmWrite b).straps = s.straps := rfl
@[simp] theorem pwmWrite_params (s : State) (b : Byte) : (s.pwmWrite b).params = s.params := rfl
@[simp] theorem pwmWrite_resource (s : State) (b : Byte) : (s.pwmWrite b).resource = s.resource := rfl
@[simp] theorem pwmWrite_schedule (s : State) (b : Byte) : (s.pwmWrite b).schedule = s.schedule := rfl
@[simp] theorem pwmWrite_trace (s : State) (b : Byte) : (s.pwmWrite b).trace = s.trace := rfl
@[simp] theorem pwmWrite_errors (s : State) (b : Byte) : (s.pwmWrite b).errors = s.errors := rfl
@[simp] theorem pwmWrite_dutyWrites (s : State) (b : Byte) : (s.pwmWrite b).dutyWrites = s.dutyWrites ++ [b] := rfl
@[simp] theorem pwmWrite_freeDraws (s : State) (b : Byte) : (s.pwmWrite b).freeDraws = s.freeDraws := rfl

@[simp] theorem deliver_regs (s : State) (k : SourceKind) (b : Byte) : (s.deliver k b).regs = { s.regs with srcKind := k, duty := b } := rfl
@[simp] theorem deliver_cfg (s : State) (k : SourceKind) (b : Byte) : (s.deliver k b).cfg = s.cfg := rfl
@[simp] theorem deliver_straps (s : State) (k : SourceKind) (b : Byte) : (s.deliver k b).straps = s.straps := rfl
@[simp] theorem deliver_params (s : State) (k : SourceKind) (b : Byte) : (s.deliver k b).params = s.params := rfl
@[simp] theorem deliver_resource (s : State) (k : SourceKind) (b : Byte) : (s.deliver k b).resource = s.resource := rfl
@[simp] theorem deliver_schedule (s : State) (k : SourceKind) (b : Byte) : (s.deliver k b).schedule = s.schedule := rfl
@[simp] theorem deliver_trace (s : State) (k : SourceKind) (b : Byte) : (s.deliver k b).trace = s.trace := rfl
@[simp] theorem deliver_errors (s : State) (k : SourceKind) (b : Byte) : (s.deliver k b).errors = s.errors := rfl
@[simp] theorem deliver_dutyWrites (s : State) (k : SourceKind) (b : Byte) : (s.deliver k b).dutyWrites = s.dutyWrites ++ [b] := rfl
@[simp] theorem deliver_freeDraws (s : State) (k : SourceKind) (b : Byte) : (s.deliver k b).freeDraws = s.freeDraws := rfl

@[simp] theorem stop_regs (s : State) : (s.stop).regs = { s.regs with streamOpen := false, active := false, justFinished := true } := rfl
@[simp] theorem stop_cfg (s : State) : (s.stop).cfg = s.cfg := rfl
@[simp] theorem stop_straps (s : State) : (s.stop).straps = s.straps := rfl
@[simp] theorem stop_params (s : State) : (s.stop).params = s.params := rfl
@[simp] theorem stop_resource (s : State) : (s.stop).resource = s.resource := rfl
@[simp] theorem stop_schedule (s : State) : (s.stop).schedule = s.schedule := rfl
@[simp] theorem stop_trace (s : State) : (s.stop).trace = s.trace := rfl
@[simp] theorem stop_errors (s : State) : (s.stop).errors = s.errors := rfl
@[simp] theorem stop_dutyWrites (s : State) : (s.stop).dutyWrites = s.dutyWrites := rfl
@[simp] theorem stop_freeDraws (s : State) : (s.stop).freeDraws = s.freeDraws := rfl

@[simp] theorem openSession_regs (s : State) : (s.openSession).regs = { s.regs with totalLen := s.resource.len, cursor := 0, streamOpen := true, active := true } := rfl
@[simp] theorem openSession_cfg (s : State) : (s.openSession).cfg = s.cfg := rfl
@[simp] theorem openSession_straps (s : State) : (s.openSession).straps = s.straps := rfl
@[simp] theorem openSession_params (s : State) : (s.openSession).params = s.params := rfl
@[simp] theorem openSession_resource (s : State) : (s.openSession).resource = s.resource := rfl
@[simp] theorem openSession_schedule (s : State) : (s.openSession).schedule = s.schedule := rfl
@[simp] theorem openSession_trace (s : State) : (s.openSession).trace = s.trace ++ [.started s.resource.len] := rfl
@[simp] theorem openSession_errors (s : State) : (s.openSession).errors = s.errors := rfl
@[simp] theorem openSession_dutyWrites (s : State) : (s.openSession).dutyWrites = s.dutyWrites := rfl
@[simp] theorem openSession_freeDraws (s : State) : (s.openSession).freeDraws = s.freeDraws := rfl

@[simp] theorem coldStart_regs (s : State) : (s.coldStart).regs = resetRegs s.straps.cfg := rfl
@[simp] theorem coldStart_cfg (s : State) : (s.coldStart).cfg = s.straps.cfg := rfl
@[simp] theorem coldStart_straps (s : State) : (s.coldStart).straps = s.straps := rfl
@[simp] theorem coldStart_params (s : State) : (s.coldStart).params = s.params := rfl
@[simp] theorem coldStart_resource (s : State) : (s.coldStart).resource = s.resource := rfl
@[simp] theorem coldStart_schedule (s : State) : (s.coldStart).schedule = s.schedule := rfl
@[simp] theorem coldStart_trace (s : State) : (s.coldStart).trace = s.trace := rfl
@[simp] theorem coldStart_errors (s : State) : (s.coldStart).errors = s.errors := rfl
@[simp] theorem coldStart_dutyWrites (s : State) : (s.coldStart).dutyWrites = s.dutyWrites := rfl
@[simp] theorem coldStart_freeDraws (s : State) : (s.coldStart).freeDraws = s.freeDraws := rfl

@[simp] theorem draw_byte (s : State) : s.draw.1 = Config.freeByte s.freeDraws := rfl

@[simp] theorem withRegs_self (s : State) : s.withRegs s.regs = s := rfl
@[simp] theorem withRegs_withRegs (s : State) (r r' : Regs) : (s.withRegs r).withRegs r' = s.withRegs r' := rfl

@[simp] theorem report_regs (s : State) (c : Bool) (e : ErrorKind) (d : Diag) : (s.report c e d).regs = s.regs := by
  cases c <;> rfl

@[simp] theorem report_cfg (s : State) (c : Bool) (e : ErrorKind) (d : Diag) : (s.report c e d).cfg = s.cfg := by
  cases c <;> rfl

@[simp] theorem report_straps (s : State) (c : Bool) (e : ErrorKind) (d : Diag) : (s.report c e d).straps = s.straps := by
  cases c <;> rfl

@[simp] theorem report_params (s : State) (c : Bool) (e : ErrorKind) (d : Diag) : (s.report c e d).params = s.params := by
  cases c <;> rfl

@[simp] theorem report_resource (s : State) (c : Bool) (e : ErrorKind) (d : Diag) : (s.report c e d).resource = s.resource := by
  cases c <;> rfl

@[simp] theorem report_schedule (s : State) (c : Bool) (e : ErrorKind) (d : Diag) : (s.report c e d).schedule = s.schedule := by
  cases c <;> rfl

@[simp] theorem report_freeDraws (s : State) (c : Bool) (e : ErrorKind) (d : Diag) : (s.report c e d).freeDraws = s.freeDraws := by
  cases c <;> rfl

@[simp] theorem report_dutyWrites (s : State) (c : Bool) (e : ErrorKind) (d : Diag) : (s.report c e d).dutyWrites = s.dutyWrites := by
  cases c <;> rfl

@[simp] theorem report_errors (s : State) (c : Bool) (e : ErrorKind) (d : Diag) :
    (s.report c e d).errors = s.errors ++ if c then [e] else [] := by
  cases c <;> simp [State.report]

@[simp] theorem report_trace (s : State) (c : Bool) (e : ErrorKind) (d : Diag) :
    (s.report c e d).trace = s.trace ++ if c then [d] else [] := by
  cases c <;> simp [State.report]

/-- Two states are equal when their ten fields are. -/
theorem State.ext_fields {s t : State} (h1 : s.regs = t.regs) (h2 : s.cfg = t.cfg) (h3 : s.straps = t.straps)
    (h4 : s.params = t.params) (h5 : s.resource = t.resource) (h6 : s.schedule = t.schedule)
    (h7 : s.trace = t.trace) (h8 : s.errors = t.errors) (h9 : s.dutyWrites = t.dutyWrites)
    (h10 : s.freeDraws = t.freeDraws) : s = t := by
  cases s; cases t; simp_all

@[simp] theorem nq_eq : Config.nq = 200 := rfl

@[simp] theorem incQ_eq : Config.incQ = 5 := rfl

@[simp] theorem adcShift_eq : Config.adcShift = 4 := rfl

@[simp] theorem silenceByte_eq : Config.silenceByte = 0#8 := rfl

@[simp] theorem debounceMs_eq : Config.debounceMs = 50 := rfl

@[simp] theorem carrierHz_eq : Config.carrierHz = 40000 := rfl

end Sys2Proof.Machine
end

