-- ==== Sys2Proof/Laws/Ops.lean ====
section
/-! SUPPORT. What the shared operations and the ten meanings can do, said once: provers cite these instead of unfolding
a meaning. -/

namespace Sys2Proof.Machine

/-! ### The shared operations -/

theorem memRead_of_some {s : State} {off : Offset} {b : Byte} (h : s.resource.read off = some b) :
    s.memRead off = (b, s) := by
  simp [State.memRead, h]

theorem memRead_of_none {s : State} {off : Offset} (h : s.resource.read off = none) : s.memRead off = s.draw := by
  simp [State.memRead, h]

/-- A read changes nothing but the count of free bytes. -/
theorem memRead_state (s : State) (off : Offset) :
    (s.memRead off).2 = s ∨ (s.resource.read off = none ∧ (s.memRead off).2 = { s with freeDraws := s.freeDraws + 1 }) := by
  cases h : s.resource.read off with
  | some b => left; rw [memRead_of_some h]
  | none => right; exact ⟨rfl, by rw [memRead_of_none h]; rfl⟩

theorem toneSample_of_some {s : State} {b : Byte} (h : tone s.regs.phaseQ = some b) : s.toneSample = (b, s) := by
  simp [State.toneSample, h]

theorem toneSample_of_none {s : State} (h : tone s.regs.phaseQ = none) : s.toneSample = s.draw := by
  simp [State.toneSample, h]

/-- `TONE` is given exactly below NQ (40_sample_sources.md R93). -/
theorem tone_isSome_iff (q : Phase) : (tone q).isSome = true ↔ q.toNat < 200 := by
  simp only [tone, nq_eq, Nat.reduceDiv, Nat.reduceMul]
  by_cases h1 : q.toNat ≤ 50
  · simp only [h1, if_true, Option.isSome_some, true_iff]; omega
  by_cases h2 : q.toNat ≤ 100
  · simp only [h1, h2, if_true, if_false, Option.isSome_some, true_iff]; omega
  by_cases h3 : q.toNat ≤ 150
  · simp only [h1, h2, h3, if_true, if_false, Option.isSome_some, true_iff]; omega
  by_cases h4 : q.toNat < 200 <;> simp [h1, h2, h3, h4]

/-- The halt gate (60_exceptions.md R180). -/
theorem unlessHalted_running {s : State} {f : State → State} (h : s.regs.halted = false) :
    unlessHalted s f = .next (f s) := by
  simp [unlessHalted, h]

theorem unlessHalted_halted {s : State} {f : State → State} (h : s.regs.halted = true) :
    unlessHalted s f = .next s := by
  simp [unlessHalted, h]

theorem bytesRemain_iff (r : Regs) : bytesRemain r = true ↔ r.cursor < r.totalLen := by
  simp [bytesRemain]

/-! ### ADVANCE -/

/-- ADVANCE with bytes left and a read that succeeds (41_playback.md R116). -/
theorem advance_read {s : State} (h : s.regs.cursor < s.regs.totalLen) :
    advance false s =
      { byte := (s.memRead s.regs.cursor).1
        status := .continuing
        state := (s.memRead s.regs.cursor).2.withRegs { s.regs with cursor := s.regs.cursor + 1 } } := by
  have hb : bytesRemain s.regs = true := (bytesRemain_iff _).2 h
  have hr : (s.memRead s.regs.cursor).2.regs = s.regs := by
    rcases memRead_state s s.regs.cursor with e | ⟨-, e⟩ <;> rw [e]
  simp [advance, hb, hr]

/-- ADVANCE with the stream exhausted (41_playback.md R116, R117). -/
theorem advance_exhausted {s : State} {rdfail : Bool} (h : ¬ s.regs.cursor < s.regs.totalLen) :
    advance rdfail s = { byte := Config.silenceByte, status := .done, state := s.stop } := by
  have hb : bytesRemain s.regs = false := by simpa [bytesRemain] using h
  simp [advance, hb]

/-- ADVANCE with a failed read (41_playback.md R119). -/
theorem advance_failed {s : State} (h : s.regs.cursor < s.regs.totalLen) :
    advance true s =
      { byte := Config.silenceByte, status := .done, state := (s.raise .streamReadFailure).stop } := by
  have hb : bytesRemain s.regs = true := (bytesRemain_iff _).2 h
  simp [advance, hb]

/-! ### POLL -/

theorem pollRegs_change {eq pin : Bool} {now : Millis} {r : Regs} (h : (!pin) ≠ r.rawLevel) :
    pollRegs eq pin now r =
      { r with rawLevel := !pin, lastChange := now, fsm := waitingState (!pin) r.debLevel } :=
  if_pos h

theorem pollRegs_confirm {eq pin : Bool} {now : Millis} {r : Regs} (h : (!pin) = r.rawLevel)
    (hd : r.rawLevel ≠ r.debLevel) (hw : windowPassed eq now r.lastChange = true) :
    pollRegs eq pin now r =
      { r with
        debLevel := r.rawLevel
        fsm := .confirmed
        startReq := if r.rawLevel && !r.active then true else r.startReq } := by
  rw [pollRegs, logicalLevel, if_neg (not_not_intro h), if_pos ⟨hd, hw⟩]

theorem pollRegs_wait {eq pin : Bool} {now : Millis} {r : Regs} (h : (!pin) = r.rawLevel)
    (hw : ¬(r.rawLevel ≠ r.debLevel ∧ windowPassed eq now r.lastChange = true)) :
    pollRegs eq pin now r = { r with fsm := waitingState r.rawLevel r.debLevel } := by
  rw [pollRegs, logicalLevel, if_neg (not_not_intro h), if_neg hw]

/-- The three ways a POLL goes (42_trigger.md R131). -/
theorem pollRegs_cases (eq pin : Bool) (now : Millis) (r : Regs) :
    ((!pin) ≠ r.rawLevel ∧ pollRegs eq pin now r =
      { r with rawLevel := !pin, lastChange := now, fsm := waitingState (!pin) r.debLevel }) ∨
    ((!pin) = r.rawLevel ∧ r.rawLevel ≠ r.debLevel ∧ windowPassed eq now r.lastChange = true ∧
      pollRegs eq pin now r =
        { r with
          debLevel := r.rawLevel
          fsm := .confirmed
          startReq := if r.rawLevel && !r.active then true else r.startReq }) ∨
    ((!pin) = r.rawLevel ∧ ¬(r.rawLevel ≠ r.debLevel ∧ windowPassed eq now r.lastChange = true) ∧
      pollRegs eq pin now r = { r with fsm := waitingState r.rawLevel r.debLevel }) := by
  by_cases h : (!pin) = r.rawLevel
  · by_cases h2 : r.rawLevel ≠ r.debLevel ∧ windowPassed eq now r.lastChange = true
    · exact .inr (.inl ⟨h, h2.1, h2.2, pollRegs_confirm h h2.1 h2.2⟩)
    · exact .inr (.inr ⟨h, h2, pollRegs_wait h h2⟩)
  · exact .inl ⟨h, pollRegs_change h⟩

/-! ### The meanings -/

/-- The state an operation leaves when the block runs; RESET's is the same whether it runs or not. -/
def effect : Instr → State → State
  | .reset => fun s =>
    ((s.coldStart.report (!s.straps.cfg.coreOk) .coreInitFailure .fatal).report
      (!s.straps.cfg.storageOk) .initializationFailure .storageInitFailed).report
      (carrierMismatch s.straps) .configurationMismatch .mismatchWarning
  | .pwmclk => fun s => s.withRegs (pwmclkRegs s.regs)
  | .tickFile rdfail => fun s => (advance rdfail s).state.deliver .fileStream (advance rdfail s).byte
  | .tickTone => fun s => (nextTone s).2.deliver .fixedTone (nextTone s).1
  | .tickLive adc => fun s => s.deliver .liveInput (nextLive adc)
  | .tickSilence => fun s => s.deliver .silence nextSilence
  | .poll pin now => fun s => s.withRegs (pollRegs s.params.confirmAtEqual pin now s.regs)
  | .start => fun s => (s.withRegs { s.regs with startReq := false }).tryStart
  | .ackfin => State.reportFinished
  | .nop => id

/-- Every operation answers a next state, from every state: its effect, or nothing while halted. -/
theorem exec_gate (i : Instr) (s : State) (hi : i ≠ .reset) : exec i s = unlessHalted s (effect i) := by
  cases i with
  | reset => exact absurd rfl hi
  | _ => rfl

theorem exec_running (i : Instr) {s : State} (h : s.regs.halted = false) : exec i s = .next (effect i s) := by
  by_cases hi : i = .reset
  · subst hi; rfl
  · rw [exec_gate i s hi, unlessHalted_running h]

theorem exec_halted (i : Instr) {s : State} (h : s.regs.halted = true) (hi : i ≠ .reset) : exec i s = .next s := by
  rw [exec_gate i s hi, unlessHalted_halted h]

theorem exec_reset (s : State) : exec .reset s = .next (effect .reset s) := rfl

theorem exec_total (i : Instr) (s : State) : ∃ t, exec i s = .next t := by
  cases h : s.regs.halted with
  | false => exact ⟨_, exec_running i h⟩
  | true =>
    by_cases hi : i = .reset
    · subst hi; exact ⟨_, rfl⟩
    · exact ⟨s, exec_halted i h hi⟩

/-- What exec's next state is. -/
theorem exec_cases {i : Instr} {s t : State} (h : exec i s = .next t) :
    (t = effect i s ∧ (s.regs.halted = false ∨ i = .reset)) ∨ (t = s ∧ s.regs.halted = true ∧ i ≠ .reset) := by
  cases hh : s.regs.halted with
  | false => rw [exec_running i hh] at h; exact .inl ⟨by injection h with h; exact h.symm, .inl rfl⟩
  | true =>
    by_cases hi : i = .reset
    · subst hi; exact .inl ⟨by injection h with h; exact h.symm, .inr rfl⟩
    · rw [exec_halted i hh hi] at h; exact .inr ⟨by injection h with h; exact h.symm, rfl, hi⟩

/-! ### The effects, written out -/

theorem effect_tickFile_read {s : State} (h : s.regs.cursor < s.regs.totalLen) :
    effect (.tickFile false) s =
      ((s.memRead s.regs.cursor).2.withRegs { s.regs with cursor := s.regs.cursor + 1 }).deliver .fileStream
        (s.memRead s.regs.cursor).1 := by
  simp only [effect, advance_read h]

theorem effect_tickFile_exhausted {s : State} {rdfail : Bool} (h : ¬ s.regs.cursor < s.regs.totalLen) :
    effect (.tickFile rdfail) s = s.stop.deliver .fileStream Config.silenceByte := by
  simp only [effect, advance_exhausted h]

theorem effect_tickFile_failed {s : State} (h : s.regs.cursor < s.regs.totalLen) :
    effect (.tickFile true) s = (s.raise .streamReadFailure).stop.deliver .fileStream Config.silenceByte := by
  simp only [effect, advance_failed h]

/-- The three ways a TICK.FILE goes. -/
theorem effect_tickFile_cases (rdfail : Bool) (s : State) :
    (s.regs.cursor < s.regs.totalLen ∧ rdfail = false ∧ effect (.tickFile rdfail) s =
      ((s.memRead s.regs.cursor).2.withRegs { s.regs with cursor := s.regs.cursor + 1 }).deliver .fileStream
        (s.memRead s.regs.cursor).1) ∨
    (s.regs.cursor < s.regs.totalLen ∧ rdfail = true ∧ effect (.tickFile rdfail) s =
      (s.raise .streamReadFailure).stop.deliver .fileStream Config.silenceByte) ∨
    (¬ s.regs.cursor < s.regs.totalLen ∧
      effect (.tickFile rdfail) s = s.stop.deliver .fileStream Config.silenceByte) := by
  by_cases h : s.regs.cursor < s.regs.totalLen
  · cases rdfail with
    | false => exact .inl ⟨h, rfl, effect_tickFile_read h⟩
    | true => exact .inr (.inl ⟨h, rfl, effect_tickFile_failed h⟩)
  · exact .inr (.inr ⟨h, effect_tickFile_exhausted h⟩)

theorem effect_tickTone_of_some {s : State} {b : Byte} (h : tone s.regs.phaseQ = some b) :
    effect .tickTone s = (s.withRegs { s.regs with phaseQ := nextPhase s.regs.phaseQ }).deliver .fixedTone b := by
  simp only [effect, nextTone, toneSample_of_some h]

theorem effect_tickTone_of_none {s : State} (h : tone s.regs.phaseQ = none) :
    effect .tickTone s =
      (s.draw.2.withRegs { s.regs with phaseQ := nextPhase s.regs.phaseQ }).deliver .fixedTone s.draw.1 := by
  simp only [effect, nextTone, toneSample_of_none h, draw_regs]

/-- The three ways a START goes (41_playback.md R111 to R114). -/
theorem effect_start_active {s : State} (h : s.regs.active = true) :
    effect .start s = s.withRegs { s.regs with startReq := false } := by
  simp [effect, State.tryStart, h]

theorem effect_start_fails {s : State} (h : s.regs.active = false)
    (hr : s.resource.present = false ∨ s.cfg.storageOk = false) :
    effect .start s = ((s.withRegs { s.regs with startReq := false }).raise .resourceNotFound).emit .notFound := by
  have : (!s.cfg.storageOk || !s.resource.present) = true := by rcases hr with e | e <;> simp [e]
  simp [effect, State.tryStart, h, this]

theorem effect_start_opens {s : State} (h : s.regs.active = false) (hp : s.resource.present = true)
    (hs : s.cfg.storageOk = true) :
    effect .start s = (s.withRegs { s.regs with startReq := false }).openSession := by
  simp [effect, State.tryStart, h, hp, hs]

theorem effect_ackfin_set {s : State} (h : s.regs.justFinished = true) :
    effect .ackfin s = (s.emit .finished).withRegs { s.regs with justFinished := false } := by
  simp [effect, State.reportFinished, h]

theorem effect_ackfin_clear {s : State} (h : s.regs.justFinished = false) : effect .ackfin s = s := by
  simp [effect, State.reportFinished, h]

/-- No operation but RESET writes `halted`, the configuration, the parameters, the straps or the resource. -/
theorem effect_fixed (i : Instr) (s : State) (h : i ≠ .reset) :
    (effect i s).regs.halted = s.regs.halted ∧ (effect i s).cfg = s.cfg ∧ (effect i s).params = s.params ∧
      (effect i s).straps = s.straps ∧ (effect i s).resource = s.resource := by
  cases i with
  | reset => exact absurd rfl h
  | tickFile f =>
    rcases effect_tickFile_cases f s with ⟨-, -, e⟩ | ⟨-, -, e⟩ | ⟨-, e⟩ <;> rw [e]
    · rcases memRead_state s s.regs.cursor with e' | ⟨-, e'⟩ <;> simp [e']
    · simp
    · simp
  | tickTone =>
    cases hm : tone s.regs.phaseQ with
    | some b => rw [effect_tickTone_of_some hm]; simp
    | none => rw [effect_tickTone_of_none hm]; simp
  | poll pin now =>
    simp only [effect, withRegs_regs]
    rcases pollRegs_cases s.params.confirmAtEqual pin now s.regs with ⟨-, e⟩ | ⟨-, -, -, e⟩ | ⟨-, -, e⟩ <;> rw [e] <;> simp
  | start =>
    simp only [effect, State.tryStart]
    split
    · simp
    · split <;> exact ⟨rfl, rfl, rfl, rfl, rfl⟩
  | ackfin => simp only [effect, State.reportFinished]; split <;> simp
  | _ => exact ⟨rfl, rfl, rfl, rfl, rfl⟩

theorem exec_fixed {i : Instr} {s t : State} (hi : i ≠ .reset) (h : exec i s = .next t) :
    t.regs.halted = s.regs.halted ∧ t.cfg = s.cfg ∧ t.params = s.params ∧ t.straps = s.straps ∧
      t.resource = s.resource := by
  rcases exec_cases h with ⟨rfl, -⟩ | ⟨rfl, -, -⟩
  · exact effect_fixed i s hi
  · exact ⟨rfl, rfl, rfl, rfl, rfl⟩

end Sys2Proof.Machine
end

