-- ==== Sys2Proof/Laws/PerInstr.lean ====
section
/-! SUPPORT. Statements made once per operation: the encoded word uses no reserved bit and selects exactly the row of
the opcode map that bears the operation's mnemonic (30_encoding.md R72, R83, R88). -/

namespace Sys2Proof.Laws.RowMatch

open Sys2Proof Sys2Proof.Machine

/-- The mnemonic of spec/opcode_table.json. -/
def mnemonic : Instr → String
  | .reset => "RESET"
  | .pwmclk => "PWMCLK"
  | .tickFile _ => "TICK.FILE"
  | .tickTone => "TICK.TONE"
  | .tickLive _ => "TICK.LIVE"
  | .tickSilence => "TICK.SILENCE"
  | .poll _ _ => "POLL"
  | .start => "START"
  | .ackfin => "ACKFIN"
  | .nop => "NOP"

/-- The mnemonics of the rows a word selects. -/
def rowsOf (opw : Opw) : List String := (opcodeTable.filter (fun row => row.selects opw)).map OpcodeRow.mnemonic

/-- Encoded under wired bits that can select it, the operation is a record without reserved bits whose word selects
exactly the operation's own row. -/
def Statement (i : Instr) : Prop :=
  ∀ w : Wires, i.wellFormed w = true → Evt.wellFormed (encode w i) = true ∧ rowsOf (Evt.opw (encode w i)) = [mnemonic i]

/-- A statement about words of the operation's strobe is enough. -/
theorem of_rows {i : Instr}
    (h : ∀ w : Wires, i.wellFormed w = true → rowsOf (assembleOpw i.strobes w) = [mnemonic i]) : Statement i := by
  intro w hw
  refine ⟨wellFormed_of_decode (decode_assembleEvt i.strobes w i.operands), ?_⟩
  rw [encode, opw_assembleEvt]
  exact h w hw

theorem reset : Statement .reset :=
  of_rows (by
    intro w h
    have e : ∀ w : Wires, true = true → rowsOf (assembleOpw { rst := true } w) = ["RESET"] := by
      rintro ⟨_ | _, _ | _, _ | _⟩ h <;> rfl
    exact e w h)

theorem pwmclk : Statement .pwmclk :=
  of_rows (by
    intro w h
    have e : ∀ w : Wires, true = true → rowsOf (assembleOpw { pwmClk := true } w) = ["PWMCLK"] := by
      rintro ⟨_ | _, _ | _, _ | _⟩ h <;> rfl
    exact e w h)

theorem tickFile (rdfail : Bool) : Statement (.tickFile rdfail) :=
  of_rows (by
    intro w h
    have e : ∀ w : Wires, w.active = true → rowsOf (assembleOpw { tick := true } w) = ["TICK.FILE"] := by
      rintro ⟨_ | _, _ | _, _ | _⟩ h <;> first | rfl | cases h
    exact e w h)

theorem tickTone : Statement .tickTone :=
  of_rows (by
    intro w h
    have e : ∀ w : Wires, (!w.active && w.toneEn) = true → rowsOf (assembleOpw { tick := true } w) = ["TICK.TONE"] := by
      rintro ⟨_ | _, _ | _, _ | _⟩ h <;> first | rfl | cases h
    exact e w h)

theorem tickLive (adc : AdcSample) : Statement (.tickLive adc) :=
  of_rows (by
    intro w h
    have e : ∀ w : Wires, (!w.active && !w.toneEn && w.liveEn) = true → rowsOf (assembleOpw { tick := true } w) = ["TICK.LIVE"] := by
      rintro ⟨_ | _, _ | _, _ | _⟩ h <;> first | rfl | cases h
    exact e w h)

theorem tickSilence : Statement .tickSilence :=
  of_rows (by
    intro w h
    have e : ∀ w : Wires, (!w.active && !w.toneEn && !w.liveEn) = true → rowsOf (assembleOpw { tick := true } w) = ["TICK.SILENCE"] := by
      rintro ⟨_ | _, _ | _, _ | _⟩ h <;> first | rfl | cases h
    exact e w h)

theorem poll (pin : Bool) (now : Millis) : Statement (.poll pin now) :=
  of_rows (by
    intro w h
    have e : ∀ w : Wires, true = true → rowsOf (assembleOpw { poll := true } w) = ["POLL"] := by
      rintro ⟨_ | _, _ | _, _ | _⟩ h <;> rfl
    exact e w h)

theorem start : Statement .start :=
  of_rows (by
    intro w h
    have e : ∀ w : Wires, true = true → rowsOf (assembleOpw { start := true } w) = ["START"] := by
      rintro ⟨_ | _, _ | _, _ | _⟩ h <;> rfl
    exact e w h)

theorem ackfin : Statement .ackfin :=
  of_rows (by
    intro w h
    have e : ∀ w : Wires, true = true → rowsOf (assembleOpw { ackfin := true } w) = ["ACKFIN"] := by
      rintro ⟨_ | _, _ | _, _ | _⟩ h <;> rfl
    exact e w h)

theorem nop : Statement .nop :=
  of_rows (by
    intro w h
    have e : ∀ w : Wires, true = true → rowsOf (assembleOpw {} w) = ["NOP"] := by
      rintro ⟨_ | _, _ | _, _ | _⟩ h <;> rfl
    exact e w h)

end Sys2Proof.Laws.RowMatch
end

