-- ==== Sys2Proof/Laws/Reset.lean ====
section
/-! SUPPORT. The mismatch check of RESET in ordinary rational arithmetic (70_reset_and_hazards.md R200). -/

namespace Sys2Proof.Machine

/-- The check with its denominators multiplied out is the comparison R200 writes. -/
theorem carrierMismatch_iff (st : Straps) :
    carrierMismatch st = true ↔ st.mismatchTolHz < |st.carrierHzActual - 40000| := by
  have ha : (0 : ℚ) < st.carrierHzActual.den := by exact_mod_cast st.carrierHzActual.den_pos
  have ht : (0 : ℚ) < st.mismatchTolHz.den := by exact_mod_cast st.mismatchTolHz.den_pos
  have e : |st.carrierHzActual - 40000| =
      |(st.carrierHzActual.num : ℚ) - 40000 * st.carrierHzActual.den| / st.carrierHzActual.den := by
    rw [← abs_of_pos ha, ← abs_div, abs_of_pos ha]
    congr 1
    conv_lhs => rw [← Rat.num_div_den st.carrierHzActual]
    field_simp
  rw [e]
  conv_rhs => rw [← Rat.num_div_den st.mismatchTolHz]
  rw [div_lt_div_iff₀ ht ha]
  simp only [carrierMismatch, decide_eq_true_eq, Int.natCast_natAbs, Config.carrierHz]
  exact_mod_cast Iff.rfl

end Sys2Proof.Machine
end

