-- ==== Sys2Proof/Laws/Step.lean ====
section
/-! SUPPORT. What lists of operations and a step can do, said once. -/

namespace Sys2Proof.Machine

/-! ### The schedule is no operand of an operation -/

/-- The state with another schedule. -/
def State.withSchedule (s : State) (l : List Stimulus) : State := { s with schedule := l }

theorem effect_withSchedule (i : Instr) (s : State) (l : List Stimulus) :
    effect i (s.withSchedule l) = (effect i s).withSchedule l := by
  cases i with
  | tickFile rdfail =>
    rcases effect_tickFile_cases rdfail s with ⟨h, hr, e⟩ | ⟨h, hr, e⟩ | ⟨h, e⟩
    · subst hr
      rw [effect_tickFile_read (s := s.withSchedule l) h, e]
      cases hm : s.resource.read s.regs.cursor with
      | some b => rw [memRead_of_some (s := s) hm, memRead_of_some (s := s.withSchedule l) (off := (s.withSchedule l).regs.cursor) hm]; rfl
      | none => rw [memRead_of_none (s := s) hm, memRead_of_none (s := s.withSchedule l) (off := (s.withSchedule l).regs.cursor) hm]; rfl
    · subst hr; rw [effect_tickFile_failed (s := s.withSchedule l) h, e]; rfl
    · rw [effect_tickFile_exhausted (s := s.withSchedule l) h, e]; rfl
  | tickTone =>
    cases hm : tone s.regs.phaseQ with
    | some b => rw [effect_tickTone_of_some (s := s) hm, effect_tickTone_of_some (s := s.withSchedule l) hm]; rfl
    | none => rw [effect_tickTone_of_none (s := s) hm, effect_tickTone_of_none (s := s.withSchedule l) hm]; rfl
  | start =>
    cases ha : s.regs.active with
    | true => rw [effect_start_active (s := s) ha, effect_start_active (s := s.withSchedule l) ha]; rfl
    | false =>
      by_cases hr : s.resource.present = false ∨ s.cfg.storageOk = false
      · rw [effect_start_fails (s := s) ha hr, effect_start_fails (s := s.withSchedule l) ha hr]; rfl
      · rw [not_or, Bool.not_eq_false, Bool.not_eq_false] at hr
        rw [effect_start_opens (s := s) ha hr.1 hr.2, effect_start_opens (s := s.withSchedule l) ha hr.1 hr.2]; rfl
  | ackfin =>
    cases hj : s.regs.justFinished with
    | true => rw [effect_ackfin_set (s := s) hj, effect_ackfin_set (s := s.withSchedule l) hj]; rfl
    | false => rw [effect_ackfin_clear (s := s) hj, effect_ackfin_clear (s := s.withSchedule l) hj]
  | reset =>
    apply State.ext_fields <;> simp [effect, State.withSchedule]
  | _ => rfl

theorem exec_withSchedule {i : Instr} {s t : State} (l : List Stimulus) (h : exec i s = .next t) :
    exec i (s.withSchedule l) = .next (t.withSchedule l) := by
  rcases exec_cases h with ⟨rfl, hh | rfl⟩ | ⟨rfl, hh, hi⟩
  · rw [exec_running i (s := s.withSchedule l) hh, effect_withSchedule]
  · rw [exec_reset, effect_withSchedule]
  · rw [exec_halted i (s := t.withSchedule l) hh hi]

theorem effect_schedule (i : Instr) (s : State) : (effect i s).schedule = s.schedule := by
  have h : effect i s = (effect i s).withSchedule s.schedule := effect_withSchedule i s s.schedule
  have e := congrArg State.schedule h
  exact e

theorem exec_schedule {i : Instr} {s t : State} (h : exec i s = .next t) : t.schedule = s.schedule := by
  rcases exec_cases h with ⟨rfl, -⟩ | ⟨rfl, -, -⟩
  · exact effect_schedule i s
  · rfl

/-! ### Lists of operations -/

@[simp] theorem execAll_nil (s : State) : execAll [] s = .next s := rfl

theorem execAll_cons {i : Instr} {l : List Instr} {s t : State} (h : exec i s = .next t) :
    execAll (i :: l) s = execAll l t := by
  simp [execAll, h]

@[simp] theorem execAll_singleton (i : Instr) (s : State) : execAll [i] s = exec i s := by
  obtain ⟨t, h⟩ := exec_total i s
  rw [execAll_cons h, h, execAll_nil]

theorem execAll_total (l : List Instr) (s : State) : ∃ t, execAll l s = .next t := by
  induction l generalizing s with
  | nil => exact ⟨s, rfl⟩
  | cons i rest ih =>
    obtain ⟨t, h⟩ := exec_total i s
    obtain ⟨u, hu⟩ := ih t
    exact ⟨u, by rw [execAll_cons h, hu]⟩

theorem execAll_append {l l' : List Instr} {s t : State} (h : execAll l s = .next t) :
    execAll (l ++ l') s = execAll l' t := by
  induction l generalizing s with
  | nil => simp only [execAll_nil, Host.Outcome.next.injEq] at h; rw [h, List.nil_append]
  | cons i rest ih =>
    obtain ⟨u, hu⟩ := exec_total i s
    rw [execAll_cons hu] at h
    rw [List.cons_append, execAll_cons hu]
    exact ih h

theorem execAll_schedule {l : List Instr} {s t : State} (h : execAll l s = .next t) : t.schedule = s.schedule := by
  induction l generalizing s with
  | nil => simp only [execAll_nil, Host.Outcome.next.injEq] at h; rw [h]
  | cons i rest ih =>
    obtain ⟨u, hu⟩ := exec_total i s
    rw [execAll_cons hu] at h
    rw [ih h, exec_schedule hu]

theorem execAll_withSchedule {is : List Instr} {s t : State} (l : List Stimulus) (h : execAll is s = .next t) :
    execAll is (s.withSchedule l) = .next (t.withSchedule l) := by
  induction is generalizing s with
  | nil => simp only [execAll_nil, Host.Outcome.next.injEq] at h; rw [h, execAll_nil]
  | cons i rest ih =>
    obtain ⟨u, hu⟩ := exec_total i s
    rw [execAll_cons hu] at h
    rw [execAll_cons (exec_withSchedule l hu)]
    exact ih h

/-- A property every operation of a list keeps is kept by the list. -/
theorem execAll_keeps {P : State → Prop} {l : List Instr} {s t : State}
    (hk : ∀ i ∈ l, ∀ a b, P a → exec i a = .next b → P b) (hs : P s) (h : execAll l s = .next t) : P t := by
  induction l generalizing s with
  | nil => simp only [execAll_nil, Host.Outcome.next.injEq] at h; exact h ▸ hs
  | cons i rest ih =>
    obtain ⟨u, hu⟩ := exec_total i s
    rw [execAll_cons hu] at h
    exact ih (fun j hj => hk j (List.mem_cons_of_mem _ hj)) (hk i List.mem_cons_self s u hs hu) h

/-- A list without RESET leaves the configuration, the parameters, the straps and the resource. -/
theorem execAll_fixed {is : List Instr} {s t : State} (hn : .reset ∉ is) (h : execAll is s = .next t) :
    t.cfg = s.cfg ∧ t.params = s.params ∧ t.straps = s.straps ∧ t.resource = s.resource := by
  refine execAll_keeps
    (P := fun a => a.cfg = s.cfg ∧ a.params = s.params ∧ a.straps = s.straps ∧ a.resource = s.resource)
    ?_ ⟨rfl, rfl, rfl, rfl⟩ h
  rintro i hi a b ⟨h1, h2, h3, h4⟩ hab
  obtain ⟨-, e1, e2, e3, e4⟩ := exec_fixed (fun e => hn (e ▸ hi)) hab
  exact ⟨e1.trans h1, e2.trans h2, e3.trans h3, e4.trans h4⟩

/-! ### The step -/

theorem step_empty {s : State} (h : s.schedule = []) : step s = exec .nop s := by simp [step, performNext, h]

theorem step_cons {s : State} {st : Stimulus} {rest : List Stimulus} (h : s.schedule = st :: rest) :
    step s = perform st (s.withSchedule rest) := by
  simp only [step, performNext, h]; rfl

/-- A strobe stimulus runs what its strobes request (30_encoding.md R71, R74). -/
theorem step_strobes {s : State} {st : Strobes} {o : Operands} {rest : List Stimulus}
    (h : s.schedule = .strobes st o :: rest) :
    step s = execAll (requested st (s.wires st.rst) o) (s.withSchedule rest) := by
  rw [step_cons h]; exact performEvent_eventFor (s.withSchedule rest) st o

/-- A whole record that decodes and agrees with the block's wired bits runs its operations. -/
theorem step_event {s : State} {e : Evt} {rest : List Stimulus} {is : List Instr} (h : s.schedule = .event e :: rest)
    (hd : decode e = .operations is) (hw : Evt.wires e = s.wires (Evt.rst e)) :
    step s = execAll is (s.withSchedule rest) := by
  rw [step_cons h]
  show performEvent e _ = _
  unfold performEvent
  rw [hd]
  exact if_pos hw

/-- The POLL of a pass, then the rest of the pass on the schedule. -/
theorem step_pass {s p : State} {pin : Bool} {now : Millis} {rest : List Stimulus}
    (h : s.schedule = .pass pin now :: rest) (hp : exec (.poll pin now) (s.withSchedule rest) = .next p) :
    step s = .next (p.withSchedule (passTail p ++ rest)) := by
  have hs : p.schedule = rest := exec_schedule hp
  rw [step_cons h]
  show performPass pin now (s.withSchedule rest) = _
  have e : performEvent ((s.withSchedule rest).eventFor { poll := true } { pin := pin, now := now })
      (s.withSchedule rest) = .next p := by
    rw [performEvent_eventFor, ← hp]; exact execAll_singleton _ _
  unfold performPass
  rw [e]
  show Host.Outcome.next (p.withSchedule (passTail p ++ p.schedule)) = _
  rw [hs]

/-- Everything a step can do: nothing, the operations of a record or of strobes that the block's wired bits select, a
pass's POLL, a binding with no session active, or a change of straps. -/
theorem step_cases {s t : State} (h : step s = .next t) :
    (s.schedule = [] ∧ exec .nop s = .next t) ∨
    (∃ rest is, execAll is (s.withSchedule rest) = .next t ∧
      ((∃ e, s.schedule = .event e :: rest ∧ decode e = .operations is ∧ Evt.wires e = s.wires (Evt.rst e)) ∨
        ∃ st o, s.schedule = .strobes st o :: rest ∧ is = requested st (s.wires st.rst) o)) ∨
    (∃ rest pin now p, s.schedule = .pass pin now :: rest ∧ exec (.poll pin now) (s.withSchedule rest) = .next p ∧
      t = p.withSchedule (passTail p ++ rest)) ∨
    (∃ rest r, ((∃ bytes, s.schedule = .bindBytes bytes :: rest) ∨ s.schedule = .bindAbsent :: rest) ∧
      s.regs.active = false ∧ Resource.wf r = true ∧ t = { s with schedule := rest, resource := r }) ∨
    (∃ rest straps, s.schedule = .setStraps straps :: rest ∧ t = { s with schedule := rest, straps := straps }) := by
  cases hl : s.schedule with
  | nil => exact .inl ⟨rfl, by rw [← step_empty hl, h]⟩
  | cons st rest =>
    right
    cases st with
    | event e =>
      left
      rw [step_cons hl] at h
      change performEvent e (s.withSchedule rest) = _ at h
      unfold performEvent at h
      cases hd : decode e with
      | rejected why => rw [hd] at h; cases h
      | operations is =>
        rw [hd] at h
        by_cases hw : Evt.wires e = (s.withSchedule rest).wires (Evt.rst e)
        · simp only [hw, if_true] at h
          exact ⟨rest, is, h, .inl ⟨e, rfl, hd, hw⟩⟩
        · simp only [hw, if_false] at h; cases h
    | strobes st o =>
      left
      rw [step_strobes hl] at h
      exact ⟨rest, _, h, .inr ⟨st, o, rfl, rfl⟩⟩
    | pass pin now =>
      right; left
      obtain ⟨p, hp⟩ := exec_total (.poll pin now) (s.withSchedule rest)
      rw [step_pass hl hp] at h
      exact ⟨rest, pin, now, p, rfl, hp, by injection h with h; exact h.symm⟩
    | bindBytes bytes =>
      right; right; left
      rw [step_cons hl] at h
      change State.bindBytes (s.withSchedule rest) bytes = _ at h
      unfold State.bindBytes State.bind at h
      by_cases hb : bytes.length < 2 ^ 32
      · rw [if_pos hb] at h
        cases ha : (s.withSchedule rest).regs.active with
        | true => rw [ha] at h; cases h
        | false =>
          rw [ha] at h
          injection h with h
          exact ⟨rest, Resource.ofBytes bytes, .inl ⟨bytes, rfl⟩, ha, ofBytes_wf bytes hb, h.symm⟩
      · rw [if_neg hb] at h; cases h
    | bindAbsent =>
      right; right; left
      rw [step_cons hl] at h
      change State.bind (s.withSchedule rest) Resource.absent = _ at h
      unfold State.bind at h
      cases ha : (s.withSchedule rest).regs.active with
      | true => rw [ha] at h; cases h
      | false =>
        rw [ha] at h
        injection h with h
        exact ⟨rest, Resource.absent, .inr rfl, ha, absent_wf, h.symm⟩
    | setStraps straps =>
      right; right; right
      rw [step_cons hl] at h
      change Host.Outcome.next _ = _ at h
      injection h with h
      exact ⟨rest, straps, rfl, h.symm⟩

theorem run_succ (n : Nat) {s t : State} (h : step s = .next t) :
    Host.Core.run Sys2Proof.core (n + 1) s = Host.Core.run Sys2Proof.core n t := by
  have h' : Sys2Proof.core.step s = .next t := h
  have e := Host.Core.run.eq_2 Sys2Proof.core s n
  rw [h'] at e
  exact e

theorem run_zero (s : State) : Host.Core.run Sys2Proof.core 0 s = .next s := rfl

end Sys2Proof.Machine
end

