-- ==== Sys2Proof/Tests/Slice0.lean ====
section
/-! SUPPORT. Our own tests: what WellFormed and the decoder refuse, words written out from 30_encoding.md and
95_test_vectors.md, one step each from 95_test_vectors.md (the vector is named), and for every obligation with
hypotheses a concrete state that meets them. -/

namespace Sys2Proof.Tests

open Sys2Proof Sys2Proof.Machine

/-! ### Helpers -/

/-- Reset state under a configuration. -/
def idle (c : Cfg) : State := { State.reset with regs := resetRegs c, cfg := c, straps := { cfg := c } }

/-- The state with other registers. -/
def withR (s : State) (f : Regs → Regs) : State := { s with regs := f s.regs }

/-- The state with a resource bound. -/
def bound (s : State) (bytes : List Byte) : State := { s with resource := Resource.ofBytes bytes }

/-- A session over `bytes` that has played `n` of them. -/
def playing (c : Cfg) (bytes : List Byte) (n : Nat) : State :=
  withR (bound (idle c) bytes) (fun r =>
    { r with
      active := true, streamOpen := true, totalLen := BitVec.ofNat 32 bytes.length, cursor := BitVec.ofNat 32 n,
      srcKind := .fileStream })

/-- A press first seen at time 0. -/
def pressed (c : Cfg) : State := withR (idle c) (fun r => { r with rawLevel := true, fsm := .debouncing })

/-- The state with one record to come. -/
def given (s : State) (e : Evt) : State := { s with schedule := [.event e] }

/-- One observation of the next state. -/
def look {α : Type} (f : State → α) : Host.Outcome State Fault Refusal → Option α
  | .next t => some (f t)
  | .fault _ => none
  | .refused _ => none

/-- Why a step was refused. -/
def why : Host.Outcome State Fault Refusal → Option Refusal
  | .next _ => none
  | .fault _ => none
  | .refused r => some r

/-- The tone configuration. -/
def toneCfg : Cfg := { toneEn := true }

/-- The live configuration. -/
def liveCfg : Cfg := { liveEn := true }

/-! ### WellFormed refuses (one ill-formed term for each check) -/

theorem test_wf_file_needs_active : Instr.wellFormed ⟨false, true, true⟩ (.tickFile true) = false := by decide
theorem test_wf_tone_needs_no_session : Instr.wellFormed ⟨true, true, false⟩ .tickTone = false := by decide
theorem test_wf_tone_needs_enable : Instr.wellFormed ⟨false, false, true⟩ .tickTone = false := by decide
theorem test_wf_live_after_tone : Instr.wellFormed ⟨false, true, true⟩ (.tickLive 7) = false := by decide
theorem test_wf_silence_after_live : Instr.wellFormed ⟨false, false, true⟩ .tickSilence = false := by decide
theorem test_wf_opw_reserved : Evt.wellFormed 0x0200000000000000 = false := by decide
theorem test_wf_record_reserved : Evt.wellFormed 0x0008400000000000 = false := by decide
theorem test_wf_memory_order : Memory.wf [(3, 1), (2, 1)] = false := by decide
theorem test_wf_memory_zero : Memory.wf [(3, 0)] = false := by decide
theorem test_wf_resource_bounds : Resource.wf ⟨true, 3, [(3, 1)]⟩ = false := by decide

/-! ### Decoding: words of R72, R88 and the vectors, written out -/

theorem test_decode_reset : decode 0x0102000000000000 = .operations [.reset] := by decide  -- P2 line 1
theorem test_decode_pwmclk : decode 0x0080000000000000 = .operations [.pwmclk] := by decide  -- R72
theorem test_decode_file : decode 0x000D200000000000 = .operations [.tickFile true] := by decide  -- R72, R75
theorem test_decode_tone : decode 0x000B1FFE00000000 = .operations [.tickTone] := by decide  -- T4
theorem test_decode_live : decode 0x0009002000000000 = .operations [.tickLive 0x010] := by decide  -- T4
theorem test_decode_silence : decode 0x00081FFE00000000 = .operations [.tickSilence] := by decide  -- T1
theorem test_decode_poll : decode 0x00140000FFFFFFF0 = .operations [.poll false 0xFFFFFFF0] := by decide  -- T8 c, d
theorem test_decode_start : decode 0x0024000000000000 = .operations [.start] := by decide  -- V2
theorem test_decode_ackfin : decode 0x0044000000000000 = .operations [.ackfin] := by decide  -- P1 line 17
theorem test_decode_nop : decode 0x0005000000000000 = .operations [.nop] := by decide  -- T22
theorem test_decode_all_strobes : decode 0x00F8000000000033 =
    .operations [.pwmclk, .tickSilence, .poll false 51, .start, .ackfin] := by decide  -- T21
theorem test_decode_rejects_opw : decode 0x0200000000000000 = .rejected .opwReserved := by decide  -- T22
theorem test_decode_rejects_record : decode 0x0008400000000000 = .rejected .recordReserved := by decide  -- T22

/-- R88's examples, encoded. -/
theorem test_encode_examples :
    [encode ⟨false, false, false⟩ .tickSilence, encode ⟨false, false, false⟩ (.poll true 120),
      encode ⟨true, false, false⟩ (.tickFile true), encode ⟨false, false, true⟩ (.tickLive 0xABC)] =
    [0x0008000000000000, 0x0010000100000078, 0x000C200000000000, 0x0009157800000000] := by decide

/-- The ten match words of spec/opcode_table.json, through the table's numbering. -/
theorem test_table_words :
    [0x0100, 0x0080, 0x000C, 0x000A, 0x0009, 0x0008, 0x0010, 0x0020, 0x0040, 0x0000].map (decodeTableWord 16) =
      [.reset, .pwmclk, .tickFile false, .tickTone, .tickLive 0, .tickSilence, .poll false 0, .start, .ackfin, .nop].map
        some := by decide

/-- Each match word, placed after reset, is the word the next step runs: what it writes. -/
theorem test_fetch_words :
    look (fun t => t.regs.pwmCnt) (step (State.reset.withFetchWord 16 0x0080)) = some 1 ∧
    look (fun t => t.regs.active) (step (State.reset.withFetchWord 16 0x000C)) = some false ∧
    look (fun t => t.regs.justFinished) (step (State.reset.withFetchWord 16 0x000C)) = some true ∧
    look (fun t => t.regs.duty) (step (State.reset.withFetchWord 16 0x000A)) = some 128 ∧
    look (fun t => t.regs.srcKind) (step (State.reset.withFetchWord 16 0x0009)) = some .liveInput ∧
    look (fun t => t.regs.rawLevel) (step (State.reset.withFetchWord 16 0x0010)) = some true ∧
    look (fun t => t.trace) (step (State.reset.withFetchWord 16 0x0020)) = some [.notFound] ∧
    look (fun t => t.schedule) (step (State.reset.withFetchWord 16 0x0107)) = some [] := by decide

/-! ### Single steps -/

/-- T23 d: the three reports in order. -/
theorem test_reset_reports :
    look (fun t => (t.trace, t.regs.halted))
      (exec .reset { idle {} with straps := ⟨{ coreOk := false, storageOk := false }, 40100, 50⟩ }) =
    some ([.fatal, .storageInitFailed, .mismatchWarning], true) := by decide

/-- T17: RESET overrides the other strobes of its word. -/
theorem test_reset_overrides :
    look (fun t => (t.regs, t.dutyWrites)) (step (given (playing {} [1, 2] 1) 0x012C000000000000)) =
      some (resetRegs {}, []) := by decide

/-- R163's example: the wrap loads the shadow. -/
theorem test_pwmclk_wrap :
    look (fun t => (t.regs.pwmCnt, t.regs.dutyActive))
      (exec .pwmclk (withR (idle {}) (fun r => { r with pwmCnt := 255, duty := 200, dutyActive := 10 }))) =
    some (0, 200) := by decide

/-- T16: no load in the middle of a period. -/
theorem test_pwmclk_shadow :
    look (fun t => (t.regs.pwmCnt, t.regs.dutyActive, t.carrierOut))
      (exec .pwmclk (withR (idle {}) (fun r => { r with pwmCnt := 63, duty := 200, dutyActive := 64 }))) =
    some (64, 64, false) := by decide

/-- R153's example. -/
theorem test_file_byte :
    look (fun t => (t.regs.duty, t.regs.cursor, t.regs.srcKind))
      (step (given (playing {} [10, 200, 0] 1) 0x000C000000000000)) = some (200, 2, .fileStream) := by decide

/-- T11: a failed read, and plain exhaustion with `rdfail` set. -/
theorem test_file_failure :
    look (fun t => (t.regs.duty, t.regs.cursor, t.regs.active, t.regs.justFinished, t.errors))
      (step (given (playing {} [1, 2, 3, 4, 5] 2) 0x000C200000000000)) =
      some (0, 2, false, true, [.streamReadFailure]) ∧
    look (fun t => (t.regs.active, t.errors)) (step (given (playing {} [1, 2, 3, 4, 5] 5) 0x000C200000000000)) =
      some (false, []) := by decide

/-- T3: the phase wraps. -/
theorem test_tone_wrap :
    look (fun t => (t.regs.duty, t.regs.phaseQ)) (exec .tickTone (withR (idle toneCfg) (fun r => { r with phaseQ := 195 }))) =
      some (108, 0) ∧
    look (fun t => (t.regs.duty, t.regs.phaseQ)) (exec .tickTone (withR (idle toneCfg) (fun r => { r with phaseQ := 199 }))) =
      some (124, 4) := by decide

/-- T2: the tone function at and off the default grid. -/
theorem test_tone_values :
    ([0, 1, 2, 3, 4, 5, 25, 49, 50, 51, 99, 100, 101, 149, 150, 151, 195, 199] : List Phase).map tone =
      ([128, 132, 136, 140, 144, 148, 218, 255, 255, 255, 132, 128, 124, 1, 1, 1, 108, 124] : List Byte).map some := by
  decide

/-- T4. -/
theorem test_live_shift :
    look (fun t => (t.regs.duty, t.regs.srcKind)) (step (given (idle liveCfg) 0x00090FFE00000000)) =
      some (127, .liveInput) := by decide

/-- T1. -/
theorem test_silence :
    look (fun t => (t.regs.duty, t.regs.srcKind))
      (step (given (withR (idle {}) (fun r => { r with duty := 77, srcKind := .fileStream })) 0x00081FFE00000000)) =
      some (0, .silence) := by decide

/-- T8 d: the window across the wrap of the millisecond counter, at 50 and at 51. -/
theorem test_poll_wrap :
    look (fun t => t.regs.startReq)
      (exec (.poll false 0x22) (withR (pressed {}) (fun r => { r with lastChange := 0xFFFFFFF0 }))) = some false ∧
    look (fun t => (t.regs.startReq, t.regs.debLevel, t.regs.fsm))
      (exec (.poll false 0x23) (withR (pressed {}) (fun r => { r with lastChange := 0xFFFFFFF0 }))) =
      some (true, true, .confirmed) := by decide

/-- T8 c: a confirmed edge during a session requests nothing. -/
theorem test_poll_swallowed :
    look (fun t => (t.regs.debLevel, t.regs.fsm, t.regs.startReq))
      (exec (.poll false 151) (withR (playing {} [1] 0) (fun r =>
        { r with rawLevel := true, lastChange := 100, fsm := .debouncing }))) = some (true, .confirmed, false) := by decide

/-- T9 i: success leaves `just_finished`. -/
theorem test_start_opens :
    look (fun t => (t.regs.active, t.regs.totalLen, t.regs.justFinished, t.trace))
      (step (given (withR (bound (idle {}) [10, 200, 0]) (fun r => { r with justFinished := true })) 0x0020000000000000)) =
      some (true, 3, true, [.started 3]) := by decide

/-- V2: START in a session. -/
theorem test_start_in_session :
    look (fun t => (t.regs.cursor, t.trace)) (step (given (playing {} [9, 8, 7] 1) 0x0024000000000000)) =
      some (1, []) := by decide

/-- T13. -/
theorem test_ackfin :
    look (fun t => (t.trace, t.regs.justFinished))
      (step (given (withR (idle {}) (fun r => { r with justFinished := true })) 0x0040000000000000)) =
      some ([.finished], false) := by decide

/-- T22: NOP where bits 2:0 agree. -/
theorem test_nop : look (fun t => t.regs) (step (given (playing toneCfg [1] 0) 0x0006000000000000)) =
    some (playing toneCfg [1] 0).regs := by decide

/-- T21: the tick of a word is chosen from `active` as the word begins; POLL requests, START answers. -/
theorem test_all_strobes :
    look (fun t => (t.regs.pwmCnt, t.regs.duty, t.regs.cursor, t.regs.active, t.trace))
      (step (given (bound (pressed {}) [7]) 0x00F8000000000033)) = some (1, 0, 0, true, [.started 1]) := by decide

/-- T22: the refusals. -/
theorem test_refusals :
    why (step (given (idle {}) 0x0200000000000000)) = some .opwReserved ∧
    why (step (given (idle {}) 0x000C000000000000)) = some .wiresDisagree ∧
    why (step (given (idle {}) 0x0008400000000000)) = some .recordReserved := by decide

/-- T18: a halted block. -/
theorem test_halted :
    look (fun t => (t.regs, t.trace)) (step (given (idle { toneEn := true, storageOk := false, coreOk := false })
      0x000A000000000000)) = some (resetRegs { toneEn := true, coreOk := false }, []) := by decide

/-- R86, R87: HOLD and PASS. -/
theorem test_script :
    scriptStimuli [.hold false 100 160 30, .tick 5 true] =
      [.pass false 100, .pass false 130, .pass false 160, .strobes { tick := true } { adc := 5, rdfail := true }] := by
  decide

/-! ### The hypotheses of the obligations are met -/

/-- A session in its middle, tone as the fallback, with a schedule. -/
def session : State := { playing toneCfg [10, 200, 0] 2 with schedule := [.strobes { tick := true } {}] }

/-- A halted block. -/
def dead : State := idle { coreOk := false, storageOk := false }

theorem test_session_inv : Inv session := by constructor <;> decide
theorem test_dead_inv : Inv dead := by constructor <;> decide
theorem test_pressed_inv : Inv (pressed {}) := by constructor <;> decide

theorem test_witness_StepKeepsInvariant :
    Inv session ∧ ∃ t, step session = .next t ∧ t.regs.cursor = 3 := ⟨test_session_inv, _, rfl, by decide⟩

theorem test_witness_HaltedBlockIgnoresAllButReset : dead.regs.halted = true ∧ Instr.tickTone ≠ .reset := by decide

theorem test_witness_HaltedBlockKeepsCarrierOff : Inv dead ∧ dead.regs.halted = true := ⟨test_dead_inv, by decide⟩

/-- Hypothesis of PwmclkCountsAndLoadsShadow (both branches), TickLiveWritesTopEightBits, TickSilenceWritesZero,
AckfinReportsOnce (both branches), and the last clause of TicksNeverFail. -/
theorem test_witness_running :
    (withR (idle {}) (fun r => { r with pwmCnt := 255, justFinished := true })).running ∧ (idle {}).running ∧
      isTick .tickTone = true := ⟨rfl, rfl, rfl⟩

theorem test_witness_CarrierHighCountPerPeriod :
    (withR (idle {}) (fun r => { r with dutyActive := 255 })).running ∧
      (withR (idle {}) (fun r => { r with dutyActive := 255 })).regs.pwmCnt = 0 := ⟨rfl, rfl⟩

theorem test_witness_OutputsFollowRegisters :
    (idle { statusEn := true }).cfg.statusEn = true ∧ (idle {}).cfg.statusEn = false := by decide

/-- Present and playing, present and ready, absent; and the invariant. -/
theorem test_witness_StatusIsBrighterWhilePlaying :
    ((playing { statusEn := true } [1] 0).cfg.statusEn = true ∧ (playing { statusEn := true } [1] 0).regs.active = true) ∧
    ((idle { statusEn := true }).cfg.statusEn = true ∧ (idle { statusEn := true }).regs.active = false) ∧
    (idle {}).cfg.statusEn = false ∧ Inv session :=
  ⟨⟨rfl, rfl⟩, ⟨rfl, rfl⟩, rfl, test_session_inv⟩

theorem test_witness_ToneIsRoundedSine : (199 : Phase).toNat < 200 := by decide

/-- The last phase with a tone value, and the first without. -/
theorem test_witness_TickToneSamplesThenAdvances :
    ((withR (idle toneCfg) (fun r => { r with phaseQ := 199 })).running ∧ tone 199 = some 124) ∧
      (withR (idle toneCfg) (fun r => { r with phaseQ := 200 })).running ∧ tone 200 = none :=
  ⟨⟨rfl, by decide⟩, rfl, by decide⟩

theorem test_witness_ToneRepeatsEveryFortyTicks : (idle toneCfg).running ∧ (idle toneCfg).regs.phaseQ = 0 := ⟨rfl, rfl⟩

/-- The last byte of the resource. -/
theorem test_witness_TickFileDeliversNextByte :
    (playing {} [10, 200, 7] 2).running ∧
      (playing {} [10, 200, 7] 2).regs.cursor.toNat < (playing {} [10, 200, 7] 2).regs.totalLen.toNat ∧
      (playing {} [10, 200, 7] 2).resource.read 2 = some 7 := ⟨rfl, by decide⟩

/-- Exhausted without a failure, and a failed read of the last byte. -/
theorem test_witness_TickFileEndsSession :
    ((playing {} [1, 2] 2).running ∧
      (playing {} [1, 2] 2).regs.totalLen.toNat ≤ (playing {} [1, 2] 2).regs.cursor.toNat) ∧
    (playing {} [1, 2] 1).running ∧ (playing {} [1, 2] 1).regs.cursor.toNat < 2 := ⟨⟨rfl, by decide⟩, rfl, by decide⟩

/-- A one-byte resource: START, a tick with a POLL and a START before it, the tick that ends the session. -/
theorem test_witness_SessionReplaysResource :
    ∃ (s : State) (l : List Stimulus),
      s.running ∧ s.regs.active = false ∧ s.cfg.storageOk = true ∧ s.resource.present = true ∧
      (∀ x ∈ l, ∃ o : Operands, o.rdfail = false ∧
        (x = .strobes { tick := true } o ∨ x = .strobes { pwmClk := true } o ∨ x = .strobes { poll := true } o ∨
          x = .strobes { start := true } o ∨ x = .strobes { ackfin := true } o)) ∧
      l.countP isTickStrobe = s.resource.len.toNat ∧
      s.schedule = .strobes { start := true } {} :: (l ++ .strobes { tick := true } {} :: []) := by
  refine ⟨{ bound (idle toneCfg) [9] with schedule :=
      [.strobes { start := true } {}, .strobes { start := true } {}, .strobes { tick := true } {},
        .strobes { tick := true } {}] },
    [.strobes { start := true } {}, .strobes { tick := true } {}], rfl, rfl, rfl, rfl, ?_, rfl, rfl⟩
  intro x hx
  exact ⟨{}, rfl, by simp only [List.mem_cons, List.not_mem_nil, or_false] at hx; tauto⟩

theorem test_witness_StartWhileActiveIsNoop :
    session.running ∧ session.regs.active = true ∧ Inv session := ⟨rfl, rfl, test_session_inv⟩

theorem test_witness_StartFails :
    ((idle {}).running ∧ (idle {}).regs.active = false ∧ (idle {}).resource.present = false) ∧
    (bound (idle { storageOk := false }) [1]).running ∧ (bound (idle { storageOk := false }) [1]).regs.active = false ∧
      (bound (idle { storageOk := false }) [1]).cfg.storageOk = false := ⟨⟨rfl, rfl, rfl⟩, rfl, rfl, rfl⟩

/-- An empty resource is present (T12). -/
theorem test_witness_StartOpensSession :
    (bound (idle {}) []).running ∧ (bound (idle {}) []).regs.active = false ∧
      (bound (idle {}) []).resource.present = true ∧ (bound (idle {}) []).cfg.storageOk = true := ⟨rfl, rfl, rfl, rfl⟩

theorem test_witness_PollRecordsRawChange :
    (pressed {}).running ∧ (!true) ≠ (pressed {}).regs.rawLevel := ⟨rfl, by decide⟩

/-- Past the window at 51; at 50 where CONFIRM_AT_EQUAL is set. -/
theorem test_witness_PollConfirmsStableLevel :
    ((pressed {}).running ∧ (!false) = (pressed {}).regs.rawLevel ∧
      (pressed {}).regs.rawLevel ≠ (pressed {}).regs.debLevel ∧ Stable (pressed {}) 51) ∧
    Stable { pressed {} with params := { confirmAtEqual := true } } 50 :=
  ⟨⟨rfl, rfl, by decide, .inl (by decide)⟩, .inr ⟨rfl, by decide⟩⟩

/-- Nothing pending; and pending at 50 with the strict compare. -/
theorem test_witness_PollOtherwiseNamesState :
    ((idle {}).running ∧ (!true) = (idle {}).regs.rawLevel ∧ (idle {}).regs.rawLevel = (idle {}).regs.debLevel) ∧
    (pressed {}).running ∧ (!false) = (pressed {}).regs.rawLevel ∧ ¬Stable (pressed {}) 50 := by
  refine ⟨⟨rfl, rfl, rfl⟩, rfl, rfl, ?_⟩
  rintro (h | ⟨h, -⟩)
  · revert h; decide
  · cases h

theorem test_witness_ConfirmedEnteredFromDebouncingOnly :
    Inv (pressed {}) ∧ (pressed {}).running ∧ ∃ t, exec (.poll false 51) (pressed {}) = .next t ∧ t.regs.fsm = .confirmed :=
  ⟨test_pressed_inv, rfl, _, rfl, by decide⟩

/-- Three toggles, the last at the edge of the window, under either setting. -/
theorem test_witness_BurstConfirmsNothing :
    (idle {}).running ∧ (idle {}).regs.rawLevel = (idle {}).regs.debLevel ∧
    ([(false, 100), (true, 110), (false, 150)] : List (Bool × Nat)).Pairwise (fun a b => a.2 ≤ b.2) ∧
    (∀ p ∈ ([(false, 100), (true, 110), (false, 150)] : List (Bool × Nat)),
      100 ≤ p.2 ∧ p.2 ≤ 100 + (if (idle {}).params.confirmAtEqual then 49 else 50) ∧ p.2 < 2 ^ 32) ∧
    (∀ p ∈ ([(false, 100), (true, 149)] : List (Bool × Nat)),
      100 ≤ p.2 ∧ p.2 ≤ 100 + (if ({ confirmAtEqual := true } : Params).confirmAtEqual then 49 else 50) ∧
        p.2 < 2 ^ 32) := ⟨rfl, by decide⟩

/-- A list of POLLs with a time past the window, and one without. -/
theorem test_witness_StableLevelConfirmedOnce :
    (pressed {}).running ∧ (pressed {}).regs.rawLevel ≠ (pressed {}).regs.debLevel ∧
    (∃ x ∈ ([50, 51, 52] : List Millis), Stable (pressed {}) x) ∧ ¬∃ x ∈ ([10, 50] : List Millis), Stable (pressed {}) x := by
  refine ⟨rfl, by decide, ⟨51, by decide, .inl (by decide)⟩, ?_⟩
  rintro ⟨x, hx, h | ⟨h, -⟩⟩
  · simp only [List.mem_cons, List.not_mem_nil, or_false] at hx
    rcases hx with rfl | rfl <;> (revert h; decide)
  · cases h

/-- A pass that requests a start (T6), and one that does not. -/
theorem test_witness_PassAnswersEveryRequest :
    ({ pressed {} with schedule := [.pass false 60] } : State).running ∧
    look (fun p => p.regs.startReq) (exec (.poll false 60) (pressed {})) = some true ∧
    look (fun p => p.regs.startReq) (exec (.poll false 50) (pressed {})) = some false := ⟨rfl, by decide⟩

/-- The frames: each operation named in one answers a next state. -/
theorem test_witness_Frames :
    (∃ t, exec (.tickFile false) session = .next t) ∧ (∃ t, exec .tickTone (idle toneCfg) = .next t) ∧
    (∃ t, exec (.tickLive 5) (idle liveCfg) = .next t) ∧ (∃ t, exec .tickSilence (idle {}) = .next t) ∧
    (∃ t, exec (.poll false 0) (idle {}) = .next t) ∧ (∃ t, exec .start (idle {}) = .next t) ∧
    (∃ t, exec .ackfin (idle {}) = .next t) ∧ (∃ t, exec .pwmclk (idle {}) = .next t) ∧
    (∃ t, exec .reset (idle {}) = .next t) :=
  ⟨⟨_, rfl⟩, ⟨_, rfl⟩, ⟨_, rfl⟩, ⟨_, rfl⟩, ⟨_, rfl⟩, ⟨_, rfl⟩, ⟨_, rfl⟩, ⟨_, rfl⟩, ⟨_, rfl⟩⟩

/-- WritersOfEachRegister: each register named does change, and in each direction named, under some operation that is not
RESET. -/
theorem test_witness_WritersOfEachRegister :
    look (fun t => (t.regs.duty, t.regs.srcKind, t.regs.phaseQ)) (exec .tickTone (idle {})) = some (128, .fixedTone, 5) ∧
    look (fun t => (t.regs.active, t.regs.streamOpen, t.regs.totalLen, t.regs.cursor, t.regs.startReq))
      (exec .start (withR (bound (idle {}) [4]) (fun r => { r with cursor := 9, startReq := true }))) =
      some (true, true, 1, 0, false) ∧
    look (fun t => (t.regs.active, t.regs.streamOpen, t.regs.justFinished)) (exec (.tickFile true) session) =
      some (false, false, true) ∧
    look (fun t => t.regs.cursor) (exec (.tickFile false) session) = some 3 ∧
    look (fun t => (t.regs.rawLevel, t.regs.lastChange, t.regs.fsm)) (exec (.poll false 7) (idle {})) =
      some (true, 7, .debouncing) ∧
    look (fun t => (t.regs.debLevel, t.regs.startReq)) (exec (.poll false 51) (pressed {})) = some (true, true) := by
  decide

theorem test_witness_TicksIgnoreTriggerRegisters :
    isTick (.tickFile false) = true ∧ ∃ t, exec (.tickFile false) session = .next t := ⟨rfl, _, rfl⟩

theorem test_witness_FreeValuesNeverDrawnUnderInvariant :
    Inv session ∧ ∃ t, step session = .next t := ⟨test_session_inv, _, rfl⟩

theorem test_witness_DecodeFollowsStrobesAndArbiter : Evt.wellFormed 0x01FF3FFFFFFFFFFF = true := by decide

/-- Every operation is well-formed under some wired bits. -/
theorem test_witness_DecodeOfEncode :
    Instr.wellFormed ⟨true, false, false⟩ (.tickFile true) = true ∧ Instr.wellFormed ⟨false, true, true⟩ .tickTone = true ∧
    Instr.wellFormed ⟨false, false, true⟩ (.tickLive 0xFFF) = true ∧
    Instr.wellFormed ⟨false, false, false⟩ .tickSilence = true ∧
    Instr.wellFormed ⟨true, true, true⟩ (.poll true 0xFFFFFFFF) = true := by decide

/-- Each clause of ReservedWordsRefused: bit 15 and bit 9 of OPW, bit 47, a wrong `active`, a wrong enable. -/
theorem test_witness_ReservedWordsRefused :
    (given (idle {}) 0x8000000000000000).schedule = [.event 0x8000000000000000] ∧
    Evt.opw 0x8000000000000000 &&& 0xFE00 ≠ 0 ∧ Evt.opw 0x0200000000000000 &&& 0xFE00 ≠ 0 ∧
    (Evt.opw 0x0008800000000000 &&& 0xFE00 = 0 ∧ (0x0008800000000000 : Evt).extractLsb' 46 2 ≠ 0) ∧
    (Evt.wellFormed 0x000C000000000000 = true ∧
      (Evt.opw 0x000C000000000000).getLsbD 2 ≠ (idle {}).regs.active) ∧
    (Evt.wellFormed 0x0009000000000000 = true ∧ (Evt.opw 0x0009000000000000).getLsbD 8 = false ∧
      (Evt.opw 0x0009000000000000).getLsbD 0 ≠ (idle {}).cfg.liveEn) ∧
    (Evt.wellFormed 0x000A000000000000 = true ∧ (Evt.opw 0x000A000000000000).getLsbD 8 = false ∧
      (Evt.opw 0x000A000000000000).getLsbD 1 ≠ (idle {}).cfg.toneEn) := by decide

theorem test_witness_StepRunsDecodedOperations :
    (given session 0x000E000000000000).schedule = [.event 0x000E000000000000] ∧
    decode 0x000E000000000000 = .operations [.tickFile false] ∧
    Evt.wires 0x000E000000000000 = (given session 0x000E000000000000).wires (Evt.rst 0x000E000000000000) := by decide

theorem test_witness_StepRunsRequestedOperations :
    session.schedule = .strobes { tick := true } {} :: [] ∧ (idle {}).schedule = [] := by decide

theorem test_witness_CoincidentStrobesEqualConsecutive :
    ({ tick := true, ackfin := true } : Strobes).rst = false ∧ singleStrobes { tick := true, ackfin := true } ≠ [] ∧
    ({ session with schedule := [.strobes { tick := true, ackfin := true } {}] } : State).schedule =
      [.strobes { tick := true, ackfin := true } {}] := by decide

theorem test_witness_BoundBytesReadBack :
    ({ idle {} with schedule := [.bindBytes [10, 0, 7]] } : State).schedule = [.bindBytes [10, 0, 7]] ∧
    (idle {}).regs.active = false ∧ ([10, 0, 7] : List Byte).length < 2 ^ 32 := by decide

theorem test_witness_AbsentBindingLeavesNoByte :
    ({ bound (idle {}) [1] with schedule := [.bindAbsent] } : State).schedule = [.bindAbsent] ∧
    (bound (idle {}) [1]).regs.active = false := by decide

/-- A change of straps in the middle of a session; then RESET, which takes them over. -/
def restrapped : State :=
  { session with schedule := [.setStraps { cfg := liveCfg }, .strobes { rst := true } {}] }

theorem test_witness_StrapsWaitForReset :
    restrapped.schedule = .setStraps { cfg := liveCfg } :: [.strobes { rst := true } {}] := rfl

/-- R202: the configuration in force stays at the change of straps and changes at RESET. -/
theorem test_witness_ConfigurationConstantBetweenResets :
    look (fun t => (t.cfg, t.straps.cfg)) (step restrapped) = some (toneCfg, liveCfg) ∧
    look (fun t => (t.cfg, t.regs)) (Host.Core.run Sys2Proof.core 2 restrapped) =
      some (liveCfg, resetRegs liveCfg) := by decide

/-- A tick of a session, and a binding without one. -/
theorem test_witness_ResourceConstantDuringSession :
    (session.regs.active = true ∧ ∃ t, step session = .next t) ∧
    ∃ t, step ({ idle {} with schedule := [.bindBytes [1]] } : State) = .next t ∧ t.resource ≠ (idle {}).resource :=
  ⟨⟨rfl, _, rfl⟩, _, rfl, by decide⟩

/-- The least length that is refused, and a binding in a session. -/
theorem test_witness_BindingRefused :
    2 ^ 32 ≤ (List.replicate (2 ^ 32) (0 : Byte)).length ∧ ([1] : List Byte).length < 2 ^ 32 ∧
    session.regs.active = true := ⟨by rw [List.length_replicate], by decide, rfl⟩

end Sys2Proof.Tests
end

section
/-! PROOF. START that opens nothing: in a session, and without a resource (41_playback.md R112, R113). -/

namespace Sys2Proof.Machine

/-- No request is pending in a session (42_trigger.md R136). -/
theorem Inv.startReq_eq_false {s : State} (hinv : Inv s) (hactive : s.regs.active = true) :
    s.regs.startReq = false :=
  Bool.eq_false_iff.mpr fun hreq => hinv.no_request_in_session ⟨hreq, hactive⟩

/-- To clear `start_req` where it is clear already changes nothing. -/
theorem withRegs_startReq_of_clear {s : State} (h : s.regs.startReq = false) :
    s.withRegs { s.regs with startReq := false } = s := by
  rw [← h, withRegs_self]

theorem exec_start_active {s : State} (hrun : s.running) (hactive : s.regs.active = true) :
    exec .start s = .next (s.withRegs { s.regs with startReq := false }) := by
  rw [exec_running .start hrun, effect_start_active hactive]

/-- The one failure of START, for want of a resource or of storage (41_playback.md R113, R114). -/
theorem exec_start_fails {s : State} (hrun : s.running) (hactive : s.regs.active = false)
    (hmissing : s.resource.present = false ∨ s.cfg.storageOk = false) :
    exec .start s =
      .next (((s.withRegs { s.regs with startReq := false }).raise .resourceNotFound).emit .notFound) := by
  rw [exec_running .start hrun, effect_start_fails hactive hmissing]

/-- Settles O19: in a session START only clears `start_req`, which the invariant says is clear already. -/
theorem startWhileActiveIsNoop : Obligations.StartWhileActiveIsNoop := by
  intro s hrun hactive
  have hexec := exec_start_active hrun hactive
  refine ⟨hexec, fun hinv => ?_⟩
  rw [hexec, withRegs_startReq_of_clear (hinv.startReq_eq_false hactive)]

/-- Settles O20: the absent resource is one of the two causes of START's failure. -/
theorem startFailsWithoutResource : Obligations.StartFailsWithoutResource := by
  intro s hrun hactive habsent
  exact exec_start_fails hrun hactive (.inl habsent)

end Sys2Proof.Machine
end

section
/-! PROOF. The rows of the opcode map name different operations (30_encoding.md R72), and TICK.SILENCE
(43_modulation.md R156). -/

namespace Sys2Proof.Machine

/-- A row builds only the operation that bears its mnemonic. -/
theorem mnemonic_build {row : OpcodeRow} (hrow : row ∈ opcodeTable) (e : Evt) :
    Laws.RowMatch.mnemonic (row.build e) = row.mnemonic := by
  simp only [opcodeTable, List.mem_cons, List.not_mem_nil, or_false] at hrow
  rcases hrow with rfl | rfl | rfl | rfl | rfl | rfl | rfl | rfl | rfl | rfl <;> rfl

theorem opcodeTable_mnemonics_nodup : (opcodeTable.map OpcodeRow.mnemonic).Nodup := by decide

/-- Two rows that build one operation are one row. -/
theorem row_eq_of_build_eq {row row' : OpcodeRow} {e : Evt} (hrow : row ∈ opcodeTable) (hrow' : row' ∈ opcodeTable)
    (hbuild : row.build e = row'.build e) : row = row' := by
  have hname : row.mnemonic = row'.mnemonic := by
    rw [← mnemonic_build hrow e, hbuild, mnemonic_build hrow' e]
  exact List.inj_on_of_nodup_map opcodeTable_mnemonics_nodup hrow hrow' hname

/-- Each row of the opcode map selects its operation exactly by its own mask and pattern (30_encoding.md R72). -/
theorem selectedBy_of_mem_opcodeTable {row : OpcodeRow} (hrow : row ∈ opcodeTable) :
    SelectedBy row.mask row.pattern row.build :=
  selectedBy_of_row row hrow fun _ _ hmem hbuild =>
    row_eq_of_build_eq hmem hrow hbuild ▸ ⟨rfl, rfl⟩

theorem tickSilence_selectedBy : SelectedBy 0xFF0F 0x0008 (fun _ => .tickSilence) :=
  selectedBy_of_mem_opcodeTable
    (row := ⟨"TICK.SILENCE", 0xFF0F, 0x0008, fun _ => .tickSilence⟩) (List.mem_of_getElem? (i := 5) rfl)

/-- A TICK's delivery writes `src_kind` and `duty`, records the write, and leaves the rest (43_modulation.md R157). -/
theorem deliver_eq (s : State) (kind : SourceKind) (b : Byte) :
    s.deliver kind b =
      { s with regs := { s.regs with duty := b, srcKind := kind }, dutyWrites := s.dutyWrites ++ [b] } := rfl

/-- The sample of the silent source is 0 (40_sample_sources.md R91). -/
theorem nextSilence_eq : nextSilence = 0 := rfl

theorem effect_tickSilence (s : State) : effect .tickSilence s = s.deliver .silence nextSilence := rfl

/-- Settles O14: its row of the map selects TICK.SILENCE, whose effect is to deliver the silent source's 0. -/
theorem tickSilenceWritesZero : Obligations.TickSilenceWritesZero := by
  refine ⟨tickSilence_selectedBy, fun s hrun => ?_⟩
  rw [exec_running .tickSilence hrun, effect_tickSilence, nextSilence_eq, deliver_eq]

end Sys2Proof.Machine
end

section
/-! PROOF. Every record without reserved bits is an assembled one, so the decoder is known on all of them
(30_encoding.md R70 to R75, R83). -/

namespace Sys2Proof.Machine

/-- The strobes a word carries. -/
def strobesOf (w : Opw) : Strobes :=
  { rst := w.getLsbD 8, pwmClk := w.getLsbD 7, ackfin := w.getLsbD 6, start := w.getLsbD 5, poll := w.getLsbD 4,
    tick := w.getLsbD 3 }

/-- The operands a record carries. -/
def operandsOf (e : Evt) : Operands :=
  { rdfail := Evt.rdfail e, adc := Evt.adc e, pin := Evt.pin e, now := Evt.now e }

theorem bit_getLsbD {n : Nat} (x : BitVec n) (i : Nat) : bit (x.getLsbD i) = x.extractLsb' i 1 := by
  ext j hj
  obtain rfl : j = 0 := by omega
  simp [bit]

/-- Two neighbouring fields of a word, the higher one first, are one field. -/
theorem append_fields {n lo lo' l l' : Nat} (x : BitVec n) (h : lo' = lo + l) :
    x.extractLsb' lo' l' ++ x.extractLsb' lo l = x.extractLsb' lo (l' + l) :=
  BitVec.extractLsb'_append_extractLsb'_eq_extractLsb' h

/-- The reserved bits of a word are its seven top ones (30_encoding.md R83 a). -/
theorem opw_reserved_field {w : Opw} (h : w &&& 0xFE00#16 = 0#16) : w.extractLsb' 9 7 = 0#7 := by
  have hfield : (w &&& 0xFE00#16).extractLsb' 9 7 = 0#7 := by rw [h]; rfl
  rw [BitVec.extractLsb'_and] at hfield
  have hmask : (0xFE00#16).extractLsb' 9 7 = BitVec.allOnes 7 := rfl
  rwa [hmask, BitVec.and_allOnes] at hfield

/-- A word without reserved bits is assembled from its strobes and wired bits. -/
theorem opw_eq_assemble {e : Evt} (h : Evt.opw e &&& 0xFE00#16 = 0#16) :
    Evt.opw e = assembleOpw (strobesOf (Evt.opw e)) (Evt.wires e) := by
  simp only [assembleOpw, strobesOf, Evt.wires, bit_getLsbD, ← opw_reserved_field h]
  simp only [append_fields]
  exact BitVec.extractLsb'_eq_self.symm

/-- A record without reserved bits is assembled from its word and operands. -/
theorem evt_eq_assemble {e : Evt} (h : Evt.wellFormed e = true) :
    e = assembleEvt (assembleOpw (strobesOf (Evt.opw e)) (Evt.wires e)) (operandsOf e) := by
  simp only [Evt.wellFormed, Evt.opwReservedClear, Evt.recordReservedClear, Bool.and_eq_true, beq_iff_eq] at h
  obtain ⟨hopw, hrecord⟩ := h
  rw [← opw_eq_assemble hopw, assembleEvt, ← hrecord]
  simp only [operandsOf, Evt.opw, Evt.rdfail, Evt.adc, Evt.pin, Evt.now, bit_getLsbD, append_fields]
  exact BitVec.extractLsb'_eq_self.symm

/-- What a record that decodes selects: what its strobes request under the wired bits it carries. -/
theorem requested_of_decode {e : Evt} {is : List Instr} (h : decode e = .operations is) :
    is = requested (strobesOf (Evt.opw e)) (Evt.wires e) (operandsOf e) := by
  have hdecode := decode_assembleEvt (strobesOf (Evt.opw e)) (Evt.wires e) (operandsOf e)
  rw [← evt_eq_assemble (wellFormed_of_decode h), h] at hdecode
  injection hdecode

/-- Settles O39: the decoder on assembled records, and every record without reserved bits is one. -/
theorem decodeFollowsStrobesAndArbiter : Obligations.DecodeFollowsStrobesAndArbiter :=
  ⟨decode_assembleEvt, fun _ he => ⟨_, _, _, evt_eq_assemble he⟩⟩

/-- The wired bits that can select a TICK make the arbiter select it (30_encoding.md R73). -/
theorem arbitrated_of_wellFormed {w : Wires} {i : Instr} (htick : isTick i = true) (hi : i.wellFormed w = true) :
    arbitrated w i.operands = i := by
  cases i with
  | tickFile rdfail => exact if_pos hi
  | tickTone | tickLive _ | tickSilence =>
    simp only [Instr.wellFormed, Bool.and_eq_true, Bool.not_eq_true'] at hi
    simp [arbitrated, Instr.operands, hi]
  | _ => cases htick

/-- The operation's own strobe and operands request it alone, under wired bits that can select it. -/
theorem requested_of_wellFormed {w : Wires} {i : Instr} (hi : i.wellFormed w = true) :
    requested i.strobes w i.operands = [i] := by
  cases i with
  | tickFile _ | tickTone | tickLive _ | tickSilence =>
    exact congrArg (fun j => [j]) (arbitrated_of_wellFormed rfl hi)
  | _ => rfl

/-- Settles O40: the encoded record is the one assembled from the operation's own strobe and operands. -/
theorem decodeOfEncode : Obligations.DecodeOfEncode := by
  intro w i hi
  rw [encode, decode_assembleEvt, requested_of_wellFormed hi]

/-- Settles O41: the decoder computes on records written out. -/
theorem sampleWordsDecode : Obligations.SampleWordsDecode := by
  unfold Obligations.SampleWordsDecode
  decide

end Sys2Proof.Machine
end

section
/-! PROOF. A step keeps what every operation a word can select keeps, and what bindings and changes of straps keep. -/

namespace Sys2Proof.Machine

/-- The TICK the arbiter selects is one the wired bits can select (30_encoding.md R73). -/
theorem wellFormed_arbitrated (w : Wires) (o : Operands) : (arbitrated w o).wellFormed w = true := by
  obtain ⟨active, toneEn, liveEn⟩ := w
  cases active <;> cases toneEn <;> cases liveEn <;> rfl

/-- A word without RST runs PWMCLK, then the arbiter's TICK, then operations that read no wired bit
(30_encoding.md R74), as far as strobed. -/
theorem requested_phases (st : Strobes) (w : Wires) (o : Operands) (hrst : st.rst = false) :
    ∃ before tick after, requested st w o = before ++ (tick ++ after) ∧
      (∀ i ∈ before, i = .pwmclk) ∧ (tick = [] ∨ tick = [arbitrated w o]) ∧ ∀ i ∈ after, isTick i = false := by
  cases hany : (st.pwmClk || st.tick || st.poll || st.start || st.ackfin) with
  | false => exact ⟨[], [], [.nop], by simp [requested, hrst, hany], by simp, .inl rfl, by simp [isTick]⟩
  | true =>
    refine ⟨if st.pwmClk then [.pwmclk] else [], if st.tick then [arbitrated w o] else [],
      (if st.poll then [.poll o.pin o.now] else []) ++ ((if st.start then [.start] else []) ++
        (if st.ackfin then [.ackfin] else [])), by simp [requested, hrst, hany], by simp, ?_, ?_⟩
    · cases st.tick <;> simp
    intro i hi
    simp only [List.mem_append, List.mem_ite_nil_right, List.mem_singleton] at hi
    rcases hi with ⟨-, rfl⟩ | ⟨-, rfl⟩ | ⟨-, rfl⟩ <;> rfl

theorem requested_rst {st : Strobes} {w : Wires} {o : Operands} (hrst : st.rst = true) :
    requested st w o = [.reset] := by
  simp [requested, hrst]

/-- An operation that is no TICK can be selected under all wired bits. -/
theorem wellFormed_of_not_tick {i : Instr} (hi : isTick i = false) (w : Wires) : i.wellFormed w = true := by
  cases i with
  | tickFile _ | tickTone | tickLive _ | tickSilence => cases hi
  | _ => rfl

theorem execAll_append_next {l l' : List Instr} {s u : State} (h : execAll (l ++ l') s = .next u) :
    ∃ t, execAll l s = .next t ∧ execAll l' t = .next u := by
  obtain ⟨t, ht⟩ := execAll_total l s
  exact ⟨t, ht, execAll_append ht ▸ h⟩

/-- Without RST the wired bits are those of the configuration in force (30_encoding.md R71). -/
theorem wires_false (s : State) :
    s.wires false = { active := s.regs.active, toneEn := s.cfg.toneEn, liveEn := s.cfg.liveEn } := rfl

/-- PWMCLK leaves the wired bits as they are. -/
theorem exec_pwmclk_wires {s t : State} (h : exec .pwmclk s = .next t) (rst : Bool) : t.wires rst = s.wires rst := by
  rcases exec_cases h with ⟨rfl, -⟩ | ⟨rfl, -, -⟩ <;> rfl

/-- The operations of a word keep what each keeps where the wired bits can select it. -/
theorem requested_keeps {P : State → Prop} {st : Strobes} {o : Operands} {s t : State}
    (hexec : ∀ i a b, i.wellFormed (a.wires false) = true → P a → exec i a = .next b → P b)
    (hs : P s) (h : execAll (requested st (s.wires st.rst) o) s = .next t) : P t := by
  cases hrst : st.rst with
  | true =>
    rw [requested_rst hrst, execAll_singleton] at h
    exact hexec .reset s t rfl hs h
  | false =>
    obtain ⟨before, tick, after, hsplit, hbefore, htick, hafter⟩ := requested_phases st (s.wires false) o hrst
    rw [hrst, hsplit] at h
    obtain ⟨u, hu, h⟩ := execAll_append_next h
    obtain ⟨v, hv, h⟩ := execAll_append_next h
    have hP : ∀ i, isTick i = false → ∀ a b, P a → exec i a = .next b → P b :=
      fun i hi a b => hexec i a b (wellFormed_of_not_tick hi _)
    have hu' : P u ∧ u.wires false = s.wires false := by
      refine execAll_keeps (P := fun a => P a ∧ a.wires false = s.wires false) ?_ ⟨hs, rfl⟩ hu
      intro i hi a b ⟨ha, hw⟩ hab
      obtain rfl := hbefore i hi
      exact ⟨hP _ rfl a b ha hab, (exec_pwmclk_wires hab false).trans hw⟩
    have hv' : P v := by
      rcases htick with rfl | rfl
      · simp only [execAll_nil, Host.Outcome.next.injEq] at hv
        exact hv ▸ hu'.1
      · rw [execAll_singleton] at hv
        exact hexec _ u v (hu'.2 ▸ wellFormed_arbitrated _ o) hu'.1 hv
    exact execAll_keeps (fun i hi => hP i (hafter i hi)) hv' h

/-- The three ways a START goes (41_playback.md R111 to R114). -/
theorem effect_start_cases (s : State) :
    (s.regs.active = true ∧ effect .start s = s.withRegs { s.regs with startReq := false }) ∨
    (s.regs.active = false ∧ effect .start s =
      ((s.withRegs { s.regs with startReq := false }).raise .resourceNotFound).emit .notFound) ∨
    (s.regs.active = false ∧ s.resource.present = true ∧ s.cfg.storageOk = true ∧
      effect .start s = (s.withRegs { s.regs with startReq := false }).openSession) := by
  cases hactive : s.regs.active with
  | true => exact .inl ⟨rfl, effect_start_active hactive⟩
  | false =>
    by_cases hmissing : s.resource.present = false ∨ s.cfg.storageOk = false
    · exact .inr (.inl ⟨rfl, effect_start_fails hactive hmissing⟩)
    · rw [not_or, Bool.not_eq_false, Bool.not_eq_false] at hmissing
      exact .inr (.inr ⟨rfl, hmissing.1, hmissing.2, effect_start_opens hactive hmissing.1 hmissing.2⟩)

/-- ACKFIN written out for both values of `just_finished` (41_playback.md R121). -/
theorem effect_ackfin_written (s : State) :
    effect .ackfin s =
      { s with
        regs := { s.regs with justFinished := false }
        trace := s.trace ++ (if s.regs.justFinished then [.finished] else []) } := by
  cases hfinished : s.regs.justFinished with
  | true => exact effect_ackfin_set hfinished
  | false =>
    have hregs : { s.regs with justFinished := false } = s.regs := by rw [← hfinished]
    rw [effect_ackfin_clear hfinished, hregs]
    simp

theorem exec_nop (s : State) : exec .nop s = .next s := by
  cases h : s.regs.halted with
  | false => exact exec_running .nop h
  | true => exact exec_halted .nop h (by simp)

/-- Everything a step can do, with a record and a strobe stimulus taken as one: both run what strobes request under the
block's wired bits. -/
theorem step_word_cases {s t : State} (h : step s = .next t) :
    (s.schedule = [] ∧ t = s) ∨
    (∃ rest st o, execAll (requested st (s.wires st.rst) o) (s.withSchedule rest) = .next t) ∨
    (∃ rest pin now p, exec (.poll pin now) (s.withSchedule rest) = .next p ∧
      t = p.withSchedule (passTail p ++ rest)) ∨
    (∃ rest r, ((∃ bytes, s.schedule = .bindBytes bytes :: rest) ∨ s.schedule = .bindAbsent :: rest) ∧
      s.regs.active = false ∧ Resource.wf r = true ∧ t = { s with schedule := rest, resource := r }) ∨
    (∃ rest straps, s.schedule = .setStraps straps :: rest ∧ t = { s with schedule := rest, straps := straps }) := by
  rcases step_cases h with ⟨hnil, hnop⟩ | ⟨rest, is, his, ⟨e, -, hdecode, hwires⟩ | ⟨st, o, -, rfl⟩⟩ |
    ⟨rest, pin, now, p, -, hp, rfl⟩ | hbind | hstraps
  · rw [exec_nop] at hnop
    injection hnop with hnop
    exact .inl ⟨hnil, hnop.symm⟩
  · rw [requested_of_decode hdecode, hwires] at his
    exact .inr (.inl ⟨rest, strobesOf (Evt.opw e), operandsOf e, his⟩)
  · exact .inr (.inl ⟨rest, st, o, his⟩)
  · exact .inr (.inr (.inl ⟨rest, pin, now, p, hp, rfl⟩))
  · exact .inr (.inr (.inr (.inl hbind)))
  · exact .inr (.inr (.inr (.inr hstraps)))

/-- A step keeps what does not depend on the schedule, what every operation keeps where the wired bits can select it,
and what bindings outside a session and changes of straps keep. -/
theorem step_keeps {P : State → Prop} {s t : State}
    (hschedule : ∀ a l, P a → P (a.withSchedule l))
    (hexec : ∀ i a b, i.wellFormed (a.wires false) = true → P a → exec i a = .next b → P b)
    (hbind : ∀ a r, a.regs.active = false → Resource.wf r = true → P a → P { a with resource := r })
    (hstraps : ∀ a x, P a → P { a with straps := x })
    (hs : P s) (h : step s = .next t) : P t := by
  rcases step_word_cases h with ⟨-, rfl⟩ | ⟨rest, st, o, hword⟩ | ⟨rest, pin, now, p, hp, rfl⟩ |
    ⟨rest, r, -, hactive, hwf, rfl⟩ | ⟨rest, straps, -, rfl⟩
  · exact hs
  · exact requested_keeps (s := s.withSchedule rest) hexec (hschedule s rest hs) hword
  · exact hschedule p _ (hexec (.poll pin now) _ p rfl (hschedule s rest hs) hp)
  · exact hbind (s.withSchedule rest) r hactive hwf (hschedule s rest hs)
  · exact hstraps (s.withSchedule rest) straps (hschedule s rest hs)

end Sys2Proof.Machine
end

section
/-! PROOF. The invariant: it holds at reset, every operation a word can select keeps it and draws no free value, and so
does every step (10_state.md R43 to R46). -/

namespace Sys2Proof.Machine

/-- A block as RESET leaves it meets the invariant. -/
theorem inv_of_cold {s : State} (hregs : s.regs = resetRegs s.cfg) (hwf : Resource.wf s.resource = true)
    (hlevels : s.params.statusReadyLevel < s.params.statusPlayingLevel) : Inv s where
  stream_open_is_active := by rw [hregs]; rfl
  cursor_within := by rw [hregs]; exact BitVec.le_refl 0#32
  phase_below := by rw [hregs]; exact Nat.zero_lt_succ 199
  phase_on_grid := by rw [hregs]; rfl
  session_bound := by rw [hregs]; simp [resetRegs]
  no_request_in_session := by rw [hregs]; simp [resetRegs]
  fsm_names_levels := by rw [hregs]; simp [resetRegs]
  no_session_without_storage := by rw [hregs]; simp [resetRegs]
  source_is_file_or_fallback := by rw [hregs]; exact .inr rfl
  halted_is_core_failure := by rw [hregs]; rfl
  halted_is_cold _ := hregs
  resource_wf := hwf
  ready_below_playing := hlevels

/-- Settles O1: the state after reset is cold. -/
theorem resetStateMeetsInvariant : Obligations.ResetStateMeetsInvariant :=
  inv_of_cold rfl absent_wf Nat.zero_lt_one

/-- The invariant does not speak of the schedule. -/
theorem Inv.withSchedule {s : State} (h : Inv s) (l : List Stimulus) : Inv (s.withSchedule l) := { h with }

theorem waitingState_eq_debouncing (raw deb : Bool) : waitingState raw deb = .debouncing ↔ raw ≠ deb := by
  cases raw <;> cases deb <;> decide

/-- The phase after a tone sample in plain arithmetic (40_sample_sources.md R94). -/
theorem nextPhase_toNat (q : Phase) : (nextPhase q).toNat = (q.toNat + 5) % 200 := by
  have hlt : (q.toNat + 5) % 200 < 200 := Nat.mod_lt _ (by decide)
  simp only [nextPhase, incQ_eq, nq_eq, BitVec.toNat_ofNat]
  omega

theorem tone_of_phase_below {q : Phase} (h : q.toNat < 200) : ∃ b, tone q = some b :=
  Option.isSome_iff_exists.mp ((tone_isSome_iff q).mpr h)

/-- In a session that meets the invariant the byte at the cursor exists while bytes remain (20_memory.md R52, R65). -/
theorem Inv.memRead_cursor {s : State} (hinv : Inv s) (hactive : s.regs.active = true)
    (hlt : s.regs.cursor < s.regs.totalLen) : ∃ b, s.memRead s.regs.cursor = (b, s) := by
  obtain ⟨hpresent, hlen⟩ := hinv.session_bound hactive
  exact ⟨_, memRead_of_some (read_eq_some _ _ hpresent (hlen ▸ hlt))⟩

/-- A running block is under no obligation to be cold. -/
theorem State.running.not_halted {s : State} (hrun : s.running) {p : Prop} : s.regs.halted = true → p :=
  fun hhalted => absurd (hrun.symm.trans hhalted) Bool.false_ne_true

/-- The end of a session, with any byte delivered (41_playback.md R117). -/
theorem Inv.deliver_stop {s : State} (h : Inv s) (hrun : s.running) (b : Byte) :
    Inv (s.stop.deliver .fileStream b) :=
  { h with
    stream_open_is_active := rfl
    session_bound := fun hactive => absurd hactive Bool.false_ne_true
    no_request_in_session := fun hboth => Bool.false_ne_true hboth.2
    no_session_without_storage := fun _ => rfl
    source_is_file_or_fallback := .inl rfl
    halted_is_cold := hrun.not_halted }

theorem Inv.effect_tickFile {s : State} (h : Inv s) (hrun : s.running) (hactive : s.regs.active = true)
    (rdfail : Bool) :
    Inv (effect (.tickFile rdfail) s) ∧ (effect (.tickFile rdfail) s).freeDraws = s.freeDraws := by
  rcases effect_tickFile_cases rdfail s with ⟨hlt, -, e⟩ | ⟨-, -, e⟩ | ⟨-, e⟩ <;> rw [e]
  · obtain ⟨b, hread⟩ := h.memRead_cursor hactive hlt
    rw [hread]
    refine ⟨{ h with
      cursor_within := ?_
      source_is_file_or_fallback := .inl rfl
      halted_is_cold := hrun.not_halted }, rfl⟩
    show s.regs.cursor + 1 ≤ s.regs.totalLen
    bv_omega
  · have hraise : Inv (s.raise .streamReadFailure) := { h with }
    exact ⟨hraise.deliver_stop hrun _, rfl⟩
  · exact ⟨h.deliver_stop hrun _, rfl⟩

/-- The delivery of the configuration's fallback source (43_modulation.md R152). -/
theorem Inv.deliver_fallback {s : State} (h : Inv s) (hrun : s.running) {kind : SourceKind} (b : Byte)
    (hkind : kind = fallbackKind s.cfg) : Inv (s.deliver kind b) :=
  { h with
    source_is_file_or_fallback := .inr hkind
    halted_is_cold := hrun.not_halted }

theorem Inv.effect_tickTone {s : State} (h : Inv s) (hrun : s.running) (htone : fallbackKind s.cfg = .fixedTone) :
    Inv (effect .tickTone s) ∧ (effect .tickTone s).freeDraws = s.freeDraws := by
  obtain ⟨b, hb⟩ := tone_of_phase_below h.phase_below
  have hgrid : s.regs.phaseQ.toNat % 5 = 0 := h.phase_on_grid
  have hnext : Inv (s.withRegs { s.regs with phaseQ := nextPhase s.regs.phaseQ }) :=
    { h with
      phase_below := by
        rw [withRegs_regs, nextPhase_toNat, nq_eq]
        exact Nat.mod_lt _ (by decide)
      phase_on_grid := by
        rw [withRegs_regs, nextPhase_toNat, incQ_eq]
        omega
      halted_is_cold := hrun.not_halted }
  rw [effect_tickTone_of_some hb]
  exact ⟨hnext.deliver_fallback hrun b htone.symm, rfl⟩

theorem Inv.effect_poll {s : State} (h : Inv s) (hrun : s.running) (pin : Bool) (now : Millis) :
    Inv (effect (.poll pin now) s) := by
  show Inv (s.withRegs (pollRegs s.params.confirmAtEqual pin now s.regs))
  rcases pollRegs_cases s.params.confirmAtEqual pin now s.regs with ⟨-, e⟩ | ⟨-, -, -, e⟩ | ⟨-, -, e⟩ <;> rw [e]
  · exact { h with
      fsm_names_levels := waitingState_eq_debouncing _ _
      halted_is_cold := hrun.not_halted }
  · exact { h with
      no_request_in_session := by
        rintro ⟨hreq, hactive⟩
        have hactive : s.regs.active = true := hactive
        exact h.no_request_in_session ⟨by simpa [hactive] using hreq, hactive⟩
      fsm_names_levels := by simp
      halted_is_cold := hrun.not_halted }
  · exact { h with
      fsm_names_levels := waitingState_eq_debouncing _ _
      halted_is_cold := hrun.not_halted }

/-- To clear `start_req` keeps the invariant. -/
theorem Inv.clear_startReq {s : State} (h : Inv s) (hrun : s.running) :
    Inv (s.withRegs { s.regs with startReq := false }) :=
  { h with
    no_request_in_session := fun hboth => Bool.false_ne_true hboth.1
    halted_is_cold := hrun.not_halted }

theorem Inv.effect_start {s : State} (h : Inv s) (hrun : s.running) :
    Inv (effect .start s) ∧ (effect .start s).freeDraws = s.freeDraws := by
  have hclear := h.clear_startReq hrun
  rcases effect_start_cases s with ⟨-, e⟩ | ⟨-, e⟩ | ⟨-, hpresent, hstorage, e⟩ <;> rw [e]
  · exact ⟨hclear, rfl⟩
  · exact ⟨{ hclear with }, rfl⟩
  · exact ⟨{ hclear with
      stream_open_is_active := rfl
      cursor_within := Nat.zero_le _
      session_bound := fun _ => ⟨hpresent, rfl⟩
      no_request_in_session := fun hboth => Bool.false_ne_true hboth.1
      no_session_without_storage := fun hno => absurd (hstorage.symm.trans hno) Bool.noConfusion
      halted_is_cold := hrun.not_halted }, rfl⟩

theorem Inv.effect_ackfin {s : State} (h : Inv s) (hrun : s.running) :
    Inv (effect .ackfin s) ∧ (effect .ackfin s).freeDraws = s.freeDraws := by
  rw [effect_ackfin_written]
  exact ⟨{ h with halted_is_cold := hrun.not_halted }, rfl⟩

theorem Inv.effect_reset {s : State} (h : Inv s) :
    Inv (effect .reset s) ∧ (effect .reset s).freeDraws = s.freeDraws := by
  refine ⟨inv_of_cold ?_ ?_ ?_, ?_⟩ <;> simp only [effect, report_regs, report_cfg, report_resource, report_params,
    report_freeDraws, coldStart_regs, coldStart_cfg, coldStart_resource, coldStart_params, coldStart_freeDraws]
  · exact h.resource_wf
  · exact h.ready_below_playing

/-- The effect of an operation the wired bits can select keeps the invariant and draws no free value. -/
theorem Inv.effect_of_wellFormed {s : State} (h : Inv s) (hrun : s.running) {i : Instr}
    (hi : i.wellFormed (s.wires false) = true) : Inv (effect i s) ∧ (effect i s).freeDraws = s.freeDraws := by
  cases i with
  | reset => exact h.effect_reset
  | pwmclk => exact ⟨{ h with halted_is_cold := hrun.not_halted }, rfl⟩
  | tickFile rdfail => exact h.effect_tickFile hrun hi rdfail
  | tickTone =>
    refine h.effect_tickTone hrun ?_
    simp only [Instr.wellFormed, wires_false, Bool.and_eq_true] at hi
    exact if_pos hi.2
  | tickLive adc =>
    refine ⟨h.deliver_fallback hrun _ ?_, rfl⟩
    simp only [Instr.wellFormed, wires_false, Bool.and_eq_true, Bool.not_eq_true'] at hi
    simp [fallbackKind, hi]
  | tickSilence =>
    refine ⟨h.deliver_fallback hrun _ ?_, rfl⟩
    simp only [Instr.wellFormed, wires_false, Bool.and_eq_true, Bool.not_eq_true'] at hi
    simp [fallbackKind, hi]
  | poll pin now => exact ⟨h.effect_poll hrun pin now, rfl⟩
  | start => exact h.effect_start hrun
  | ackfin => exact h.effect_ackfin hrun
  | nop => exact ⟨h, rfl⟩

theorem Inv.exec_of_wellFormed {s t : State} (h : Inv s) {i : Instr} (hi : i.wellFormed (s.wires false) = true)
    (hexec : exec i s = .next t) : Inv t ∧ t.freeDraws = s.freeDraws := by
  rcases exec_cases hexec with ⟨rfl, hrun | rfl⟩ | ⟨rfl, -, -⟩
  · exact h.effect_of_wellFormed hrun hi
  · exact h.effect_reset
  · exact ⟨h, rfl⟩

/-- Every step keeps the invariant and draws no free value. -/
theorem Inv.step {s t : State} (h : Inv s) (hstep : step s = .next t) : Inv t ∧ t.freeDraws = s.freeDraws := by
  refine step_keeps (P := fun a => Inv a ∧ a.freeDraws = s.freeDraws) ?_ ?_ ?_ ?_ ⟨h, rfl⟩ hstep
  · exact fun a l ⟨ha, hdraws⟩ => ⟨ha.withSchedule l, hdraws⟩
  · intro i a b hi ⟨ha, hdraws⟩ hab
    obtain ⟨hb, hsame⟩ := ha.exec_of_wellFormed hi hab
    exact ⟨hb, hsame.trans hdraws⟩
  · intro a r hactive hwf ⟨ha, hdraws⟩
    exact ⟨{ ha with
      session_bound := fun hplaying => absurd (hactive.symm.trans hplaying) Bool.false_ne_true
      resource_wf := hwf }, hdraws⟩
  · exact fun a x ⟨ha, hdraws⟩ => ⟨{ ha with }, hdraws⟩

/-- Settles O2: every step keeps the invariant. -/
theorem stepKeepsInvariant : Obligations.StepKeepsInvariant := fun _ _ h hstep => (h.step hstep).1

/-- Settles O38: under the invariant no step draws a free value. -/
theorem freeValuesNeverDrawnUnderInvariant : Obligations.FreeValuesNeverDrawnUnderInvariant :=
  fun _ _ h hstep => (h.step hstep).2

end Sys2Proof.Machine
end

section
/-! PROOF. What a step does with each stimulus: records run or refused (30_encoding.md R71, R74, R83), strobes together
or one by one (R74), bindings and straps (R86). -/

namespace Sys2Proof.Machine

/-! ### Records -/

theorem step_event_rejected {s : State} {e : Evt} {rest : List Stimulus} {why : DecodeReject}
    (hs : s.schedule = .event e :: rest) (hd : decode e = .rejected why) : step s = .refused (rejectRefusal why) := by
  rw [step_cons hs]
  show performEvent e _ = _
  rw [performEvent, hd]

theorem step_event_disagrees {s : State} {e : Evt} {rest : List Stimulus} (hs : s.schedule = .event e :: rest)
    (hwf : Evt.wellFormed e = true) (hwires : Evt.wires e ≠ s.wires (Evt.rst e)) :
    step s = .refused .wiresDisagree := by
  rw [step_cons hs]
  show performEvent e _ = _
  rw [performEvent, decode_of_wellFormed hwf]
  exact if_neg hwires

theorem decode_opwReserved {e : Evt} (h : Evt.opw e &&& 0xFE00 ≠ 0) : decode e = .rejected .opwReserved := by
  have hclear : Evt.opwReservedClear e = false := by simpa [Evt.opwReservedClear] using h
  simp [decode, hclear]

theorem decode_recordReserved {e : Evt} (hopw : Evt.opw e &&& 0xFE00 = 0) (h : e.extractLsb' 46 2 ≠ 0) :
    decode e = .rejected .recordReserved := by
  have hclear : Evt.opwReservedClear e = true := by simpa [Evt.opwReservedClear] using hopw
  have hrecord : Evt.recordReservedClear e = false := by simpa [Evt.recordReservedClear] using h
  simp [decode, hclear, hrecord]

/-- Settles O42: the decoder rejects by name, and the step compares the wired bits. -/
theorem reservedWordsRefused : Obligations.ReservedWordsRefused := by
  intro s e rest hs
  refine ⟨fun h => step_event_rejected hs (decode_opwReserved h),
    fun hopw h => step_event_rejected hs (decode_recordReserved hopw h),
    fun hwf hactive => step_event_disagrees hs hwf fun heq => hactive (congrArg Wires.active heq), ?_⟩
  intro hwf hrst henables
  have hrst : Evt.rst e = false := hrst
  refine step_event_disagrees hs hwf fun heq => ?_
  rw [hrst, wires_false] at heq
  exact henables.elim (fun htone => htone (congrArg Wires.toneEn heq)) fun hlive => hlive (congrArg Wires.liveEn heq)

/-- Settles O43: a list of one operation runs as the operation does. -/
theorem stepRunsDecodedOperations : Obligations.StepRunsDecodedOperations := by
  intro s e rest ops hs hdecode hwires
  have hstep := step_event hs hdecode hwires
  refine ⟨hstep, ?_⟩
  rintro i rfl
  exact hstep.trans (execAll_singleton i _)

/-! ### Strobes -/

/-- Settles O44: with nothing scheduled the step is NOP, which changes nothing. -/
theorem stepRunsRequestedOperations : Obligations.StepRunsRequestedOperations :=
  ⟨fun _ _ _ _ hs => step_strobes hs, fun s hs => (step_empty hs).trans (exec_nop s)⟩

/-- Only a TICK depends on the wired bits (30_encoding.md R73). -/
theorem requested_wires_irrel {st : Strobes} (h : st.tick = false) (w w' : Wires) (o : Operands) :
    requested st w o = requested st w' o := by
  simp [requested, h]

/-- A word requests what its single strobes request one after another (30_encoding.md R74). -/
theorem requested_eq_flatMap {st : Strobes} (w : Wires) (o : Operands) (hrst : st.rst = false)
    (hsome : singleStrobes st ≠ []) :
    requested st w o = (singleStrobes st).flatMap fun x => requested x w o := by
  obtain ⟨rst, pwmClk, ackfin, start, poll, tick⟩ := st
  obtain rfl : rst = false := hrst
  cases hany : (pwmClk || tick || poll || start || ackfin) with
  | false =>
    simp only [Bool.or_eq_false_iff] at hany
    simp [singleStrobes, hany] at hsome
  | true =>
    simp only [requested, hany, singleStrobes, List.flatMap_append]
    cases pwmClk <;> cases tick <;> cases poll <;> cases start <;> cases ackfin <;> rfl

/-- Of the single strobes only PWMCLK's comes before a TICK's. -/
theorem singleStrobes_pairwise (st : Strobes) :
    (singleStrobes st).Pairwise fun x y => y.tick = true → x = { pwmClk := true } := by
  obtain ⟨rst, pwmClk, ackfin, start, poll, tick⟩ := st
  cases pwmClk <;> cases tick <;> cases poll <;> cases start <;> cases ackfin <;> simp [singleStrobes]

theorem rst_of_mem_singleStrobes {st x : Strobes} (h : x ∈ singleStrobes st) : x.rst = false := by
  simp only [singleStrobes, List.mem_append, List.mem_ite_nil_right, List.mem_singleton] at h
  rcases h with (((⟨-, rfl⟩ | ⟨-, rfl⟩) | ⟨-, rfl⟩) | ⟨-, rfl⟩) | ⟨-, rfl⟩ <;> rfl

/-- Words presented one by one, the wired bits kept until the last TICK, run what they request under them. -/
theorem run_strobes (w : Wires) (o : Operands) (rest : List Stimulus) (xs : List Strobes) (s : State)
    (hrst : ∀ x ∈ xs, x.rst = false) (horder : xs.Pairwise fun x y => y.tick = true → x = { pwmClk := true })
    (hwires : (∃ x ∈ xs, x.tick = true) → s.wires false = w) :
    Host.Core.run Sys2Proof.core xs.length (s.withSchedule (xs.map (fun x => .strobes x o) ++ rest)) =
      execAll (xs.flatMap fun x => requested x w o) (s.withSchedule rest) := by
  induction xs generalizing s with
  | nil => rfl
  | cons x xs ih =>
    obtain ⟨hx, horder⟩ := List.pairwise_cons.mp horder
    have hrequest : requested x w o = requested x (s.wires x.rst) o := by
      cases htick : x.tick with
      | true => rw [hrst x List.mem_cons_self, hwires ⟨x, List.mem_cons_self, htick⟩]
      | false => exact requested_wires_irrel htick _ _ o
    obtain ⟨t, ht⟩ := execAll_total (requested x w o) s
    have hstep : step (s.withSchedule (.strobes x o :: (xs.map (fun x => .strobes x o) ++ rest))) =
        .next (t.withSchedule (xs.map (fun x => .strobes x o) ++ rest)) := by
      rw [hrequest] at ht
      exact (step_strobes rfl).trans (execAll_withSchedule (s := s) _ ht)
    have hkept : (∃ y ∈ xs, y.tick = true) → t.wires false = w := by
      rintro ⟨y, hy, htick⟩
      obtain rfl := hx y hy htick
      have hpwm : exec .pwmclk s = .next t := (execAll_singleton .pwmclk s).symm.trans ht
      rw [exec_pwmclk_wires hpwm, hwires ⟨y, List.mem_cons_of_mem _ hy, htick⟩]
    refine (run_succ _ hstep).trans
      ((ih t (fun y hy => hrst y (List.mem_cons_of_mem _ hy)) horder hkept).trans ?_)
    rw [List.flatMap_cons, execAll_append (execAll_withSchedule rest ht)]

/-- Settles O45: before a TICK's word only PWMCLK's is run, which leaves the wired bits. -/
theorem coincidentStrobesEqualConsecutive : Obligations.CoincidentStrobesEqualConsecutive := by
  intro s st o rest hrst hsome hs
  rw [step_strobes hs, hrst, requested_eq_flatMap _ o hrst hsome]
  exact run_strobes (s.wires false) o rest _ s (fun _ => rst_of_mem_singleStrobes) (singleStrobes_pairwise st)
    fun _ => rfl

/-! ### Bindings and straps -/

theorem bind_inactive {s : State} (h : s.regs.active = false) (r : Resource) :
    s.bind r = .next { s with resource := r } := by
  simp [State.bind, h]

theorem bind_active {s : State} (h : s.regs.active = true) (r : Resource) :
    s.bind r = .refused .rebindWhileActive := by
  simp [State.bind, h]

theorem step_bindBytes {s : State} {bytes : List Byte} {rest : List Stimulus}
    (hs : s.schedule = .bindBytes bytes :: rest) (hlen : bytes.length < 2 ^ 32) :
    step s = (s.withSchedule rest).bind (Resource.ofBytes bytes) :=
  (step_cons hs).trans (if_pos hlen)

theorem step_bindAbsent {s : State} {rest : List Stimulus} (hs : s.schedule = .bindAbsent :: rest) :
    step s = (s.withSchedule rest).bind Resource.absent :=
  step_cons hs

/-- A read of bytes bound answers the byte listed, or none past the end (20_memory.md R52). -/
theorem read_ofBytes {bytes : List Byte} (hlen : bytes.length < 2 ^ 32) (off : Offset) :
    (Resource.ofBytes bytes).read off = bytes[off.toNat]? := by
  have hwithin : off < (Resource.ofBytes bytes).len ↔ off.toNat < bytes.length := by
    rw [BitVec.lt_def, ofBytes_len bytes hlen]
  by_cases h : off.toNat < bytes.length
  · rw [read_eq_some _ _ rfl (hwithin.mpr h), List.getElem?_eq_getElem h]
    have hread := ofBytesFrom_read bytes 0 off.toNat h
    rw [Nat.zero_add] at hread
    exact congrArg some hread
  · rw [read_eq_none _ _ fun hread => h (hwithin.mp hread.2), List.getElem?_eq_none (Nat.le_of_not_lt h)]

/-- Settles O46. The resource bound is the one of the bytes. -/
theorem boundBytesReadBack : Obligations.BoundBytesReadBack := by
  intro s bytes rest hs hactive hlen
  refine ⟨Resource.ofBytes bytes, ?_, rfl, ofBytes_len bytes hlen, ofBytes_wf bytes hlen, read_ofBytes hlen⟩
  rw [step_bindBytes hs hlen]
  exact bind_inactive (s := s.withSchedule rest) hactive _

/-- Settles O47: the length is tested first, then the session. -/
theorem bindingRefused : Obligations.BindingRefused := by
  intro s bytes rest
  refine ⟨fun hs hlen => (step_cons hs).trans (if_neg (Nat.not_lt.mpr hlen)), fun hs hlen hactive => ?_,
    fun hs hactive => ?_⟩
  · rw [step_bindBytes hs hlen]
    exact bind_active (s := s.withSchedule rest) hactive _
  · rw [step_bindAbsent hs]
    exact bind_active (s := s.withSchedule rest) hactive _

/-- Settles O49: the resource bound is the absent one. -/
theorem absentBindingLeavesNoByte : Obligations.AbsentBindingLeavesNoByte := by
  intro s rest hs hactive
  refine ⟨Resource.absent, ?_, rfl, absent_wf, fun off => read_eq_none _ off fun h => Bool.false_ne_true h.1⟩
  rw [step_bindAbsent hs]
  exact bind_inactive (s := s.withSchedule rest) hactive _

/-- Settles O50: a change of straps is performed as a write of that field alone. -/
theorem strapsWaitForReset : Obligations.StrapsWaitForReset := fun _ _ _ hs => step_cons hs

/-! ### What no step changes -/

theorem effect_reset_regs (s : State) : (effect .reset s).regs = resetRegs s.straps.cfg := by simp [effect]

theorem effect_reset_cfg (s : State) : (effect .reset s).cfg = s.straps.cfg := by simp [effect]

/-- What RESET leaves of the surroundings, the sampled configuration aside. -/
theorem effect_reset_fixed (s : State) :
    (effect .reset s).straps = s.straps ∧ (effect .reset s).params = s.params ∧
      (effect .reset s).resource = s.resource ∧ (effect .reset s).dutyWrites = s.dutyWrites ∧
      (effect .reset s).freeDraws = s.freeDraws := by
  simp [effect]

/-- A word leaves the surroundings, and the configuration unless it is RESET's. -/
theorem requested_fixed {st : Strobes} {w : Wires} {o : Operands} {s t : State}
    (h : execAll (requested st w o) s = .next t) :
    (t.cfg = s.cfg ∨ t.cfg = s.straps.cfg ∧ t.regs = resetRegs s.straps.cfg) ∧ t.params = s.params ∧
      t.straps = s.straps ∧ t.resource = s.resource := by
  rcases requested_reset st w o with hreset | hreset
  · rw [hreset, execAll_singleton, exec_reset] at h
    injection h with h
    subst h
    obtain ⟨hstraps, hparams, hresource, -, -⟩ := effect_reset_fixed s
    exact ⟨.inr ⟨effect_reset_cfg s, effect_reset_regs s⟩, hparams, hstraps, hresource⟩
  · obtain ⟨hcfg, hfixed⟩ := execAll_fixed hreset h
    exact ⟨.inl hcfg, hfixed⟩

/-- Settles O51: of the stimuli only RESET's word samples the configuration, and only a change of straps changes them. -/
theorem configurationConstantBetweenResets : Obligations.ConfigurationConstantBetweenResets := by
  intro s t h
  rcases step_word_cases h with ⟨-, rfl⟩ | ⟨rest, st, o, hword⟩ | ⟨rest, pin, now, p, hp, rfl⟩ |
    ⟨rest, r, -, -, -, rfl⟩ | ⟨rest, straps, hs, rfl⟩
  · exact ⟨.inl rfl, rfl, .inl rfl⟩
  · obtain ⟨hcfg, hparams, hstraps, -⟩ := requested_fixed hword
    exact ⟨hcfg, hparams, .inl hstraps⟩
  · obtain ⟨-, hcfg, hparams, hstraps, -⟩ := exec_fixed (by simp) hp
    exact ⟨.inl hcfg, hparams, .inl hstraps⟩
  · exact ⟨.inl rfl, rfl, .inl rfl⟩
  · exact ⟨.inl rfl, rfl, .inr ⟨rest, hs⟩⟩

/-- Settles O52: no operation writes the resource, and no binding is admitted in a session. -/
theorem resourceConstantDuringSession : Obligations.ResourceConstantDuringSession := by
  intro s t h
  rcases step_word_cases h with ⟨-, rfl⟩ | ⟨rest, st, o, hword⟩ | ⟨rest, pin, now, p, hp, rfl⟩ |
    ⟨rest, r, hs, hactive, -, rfl⟩ | ⟨rest, straps, -, rfl⟩
  · exact ⟨fun _ => rfl, .inl rfl⟩
  · obtain ⟨-, -, -, hresource⟩ := requested_fixed hword
    exact ⟨fun _ => hresource, .inl hresource⟩
  · obtain ⟨-, -, -, -, hresource⟩ := exec_fixed (by simp) hp
    exact ⟨fun _ => hresource, .inl hresource⟩
  · refine ⟨fun hplaying => absurd (hactive.symm.trans hplaying) Bool.false_ne_true, .inr ?_⟩
    exact hs.imp (fun ⟨bytes, hbytes⟩ => ⟨bytes, rest, hbytes⟩) fun habsent => ⟨rest, habsent⟩
  · exact ⟨fun _ => rfl, .inl rfl⟩

end Sys2Proof.Machine
end

section
/-! PROOF. Each operation's row of the opcode map and its effect written out: RESET and the halt gate, PWMCLK and the
outputs, the four TICK operations (30_encoding.md R72; 43_modulation.md, 60_exceptions.md, 70_reset_and_hazards.md). -/

namespace Sys2Proof.Machine

/-- The `n`-th row of the opcode map selects its operation by its own mask and pattern (30_encoding.md R72). -/
theorem selectedBy_row (n : Fin 10) :
    SelectedBy (opcodeTable[n]).mask (opcodeTable[n]).pattern (opcodeTable[n]).build :=
  selectedBy_of_mem_opcodeTable (List.getElem_mem _)

/-! ### RESET and the halt gate -/

/-- Settles O3: its row of the map, and the three reports each under its own condition. -/
theorem resetRestoresEveryRegister : Obligations.ResetRestoresEveryRegister := by
  refine ⟨selectedBy_row 0, fun s => ?_⟩
  rw [exec_reset]
  refine congrArg Host.Outcome.next (State.ext_fields ?_ ?_ ?_ ?_ ?_ ?_ ?_ ?_ ?_ ?_) <;>
    simp [effect, resetRegs, fallbackKind, carrierMismatch_iff]

/-- Settles O4: the halt gate. -/
theorem haltedBlockIgnoresAllButReset : Obligations.HaltedBlockIgnoresAllButReset :=
  fun i _ hhalted hi => exec_halted i hhalted hi

/-- Settles O5: a halted block that meets the invariant is cold, and no count lies below 0. -/
theorem haltedBlockKeepsCarrierOff : Obligations.HaltedBlockKeepsCarrierOff := by
  intro s hinv hhalted
  have hcold := hinv.halted_is_cold hhalted
  rw [State.carrierOut, hcold]
  exact ⟨rfl, rfl, rfl⟩

/-- Settles O24: its row of the map, and NOP in a running and in a halted block. -/
theorem nopChangesNothing : Obligations.NopChangesNothing := ⟨selectedBy_row 9, exec_nop⟩

/-! ### PWMCLK and the outputs -/

/-- PWMCLK on the registers in plain arithmetic (43_modulation.md R163). -/
theorem pwmclkRegs_eq (r : Regs) :
    pwmclkRegs r =
      { r with
        dutyActive := if r.pwmCnt.toNat = 255 then r.duty else r.dutyActive
        pwmCnt := BitVec.ofNat 8 ((r.pwmCnt.toNat + 1) % 256) } := by
  have hwrap : r.pwmCnt = 255 ↔ r.pwmCnt.toNat = 255 := BitVec.toNat_inj.symm
  have hcount : r.pwmCnt + 1 = BitVec.ofNat 8 ((r.pwmCnt.toNat + 1) % 256) := by
    apply BitVec.eq_of_toNat_eq
    simp
  simp only [pwmclkRegs, hwrap, hcount]

/-- Settles O6: its row of the map, and PWMCLK on the registers in plain arithmetic. -/
theorem pwmclkCountsAndLoadsShadow : Obligations.PwmclkCountsAndLoadsShadow := by
  refine ⟨selectedBy_row 1, fun s hrun => ?_⟩
  rw [exec_running .pwmclk hrun, ← pwmclkRegs_eq]
  rfl

theorem carrierOut_iff (s : State) : s.carrierOut = true ↔ s.regs.pwmCnt.toNat < s.regs.dutyActive.toNat := by
  rw [State.carrierOut, decide_eq_true_iff, BitVec.lt_def]

theorem statusLevel_enabled {s : State} (h : s.cfg.statusEn = true) : s.statusLevel = some s.regs.active := if_pos h

theorem statusLevel_disabled {s : State} (h : s.cfg.statusEn = false) : s.statusLevel = none := by
  simp [State.statusLevel, h]

/-- The bits of CFG (10_state.md R40). -/
theorem cfgWord_bits (c : Cfg) :
    (cfgWord c).getLsbD 0 = c.liveEn ∧ (cfgWord c).getLsbD 1 = c.toneEn ∧ (cfgWord c).getLsbD 2 = c.statusEn ∧
      (cfgWord c).getLsbD 3 = c.storageOk ∧ (cfgWord c).getLsbD 4 = c.coreOk := by
  simp only [cfgWord, BitVec.getLsbD_append]
  simp

/-- The bits of STATUS below its two fields (10_state.md R41). -/
theorem statusWord_bits (s : State) :
    s.statusWord.getLsbD 0 = s.regs.active ∧ s.statusWord.getLsbD 1 = s.regs.justFinished ∧
      s.statusWord.getLsbD 2 = s.regs.startReq ∧ s.statusWord.getLsbD 3 = s.regs.debLevel ∧
      s.statusWord.getLsbD 4 = s.regs.rawLevel := by
  simp only [State.statusWord, BitVec.getLsbD_append]
  simp

/-- The two fields of STATUS (10_state.md R41). -/
theorem statusWord_fields (s : State) :
    s.statusWord.extractLsb' 5 2 = triggerStateCode s.regs.fsm ∧
      s.statusWord.extractLsb' 7 2 = sourceKindCode s.regs.srcKind := by
  constructor <;> ext i hi <;> obtain rfl | rfl : i = 0 ∨ i = 1 := by omega
  all_goals
    simp only [State.statusWord, BitVec.getElem_extractLsb', BitVec.getLsbD_append]
    simp

/-- Settles O8: each port and each bit of the two words. -/
theorem outputsFollowRegisters : Obligations.OutputsFollowRegisters := by
  intro s
  obtain ⟨hc0, hc1, hc2, hc3, hc4⟩ := cfgWord_bits s.cfg
  obtain ⟨hs0, hs1, hs2, hs3, hs4⟩ := statusWord_bits s
  obtain ⟨hfsm, hkind⟩ := statusWord_fields s
  exact ⟨carrierOut_iff s, statusLevel_enabled, statusLevel_disabled, rfl, rfl, rfl, rfl, hc0, hc1, hc2, hc3, hc4,
    hs0, hs1, hs2, hs3, hs4, hfsm, hkind⟩

/-- Settles O48: the level shown is that of `active`; the levels' order is a clause of the invariant. -/
theorem statusIsBrighterWhilePlaying : Obligations.StatusIsBrighterWhilePlaying := by
  refine ⟨fun s hen hactive => ?_, fun s hen hactive => ?_, fun s hdis => ?_, fun s hinv => hinv.ready_below_playing⟩
  · rw [State.statusBrightness, statusLevel_enabled hen, hactive]; rfl
  · rw [State.statusBrightness, statusLevel_enabled hen, hactive]; rfl
  · rw [State.statusBrightness, statusLevel_disabled hdis]; rfl

/-! ### The TICK operations -/

/-- Settles O10: the tone function computes the table. -/
theorem toneTableOfDefaultPhases : Obligations.ToneTableOfDefaultPhases := by
  unfold Obligations.ToneTableOfDefaultPhases
  decide

/-- TICK.TONE where the tone function is given, written out (43_modulation.md R154). -/
theorem exec_tickTone_of_some {s : State} (hrun : s.running) {b : Byte} (hb : tone s.regs.phaseQ = some b) :
    exec .tickTone s = .next
      { s with
        regs := { s.regs with duty := b, srcKind := .fixedTone, phaseQ := nextPhase s.regs.phaseQ }
        dutyWrites := s.dutyWrites ++ [b] } := by
  rw [exec_running .tickTone hrun, effect_tickTone_of_some hb]
  rfl

/-- Settles O11: the sample is drawn where the tone function is not given, and all else is the same. -/
theorem tickToneSamplesThenAdvances : Obligations.TickToneSamplesThenAdvances := by
  refine ⟨selectedBy_row 3, fun s hrun => ⟨fun b hb => exec_tickTone_of_some hrun hb, fun hnone => ?_⟩⟩
  refine ⟨Config.freeByte s.freeDraws, ?_⟩
  rw [exec_running .tickTone hrun, effect_tickTone_of_none hnone]
  rfl

/-- The top eight of the twelve sample bits (30_encoding.md R77). -/
theorem liveSample_eq (adc : AdcSample) : liveSample adc = BitVec.ofNat 8 (adc.toNat / 16) := by
  apply BitVec.eq_of_toNat_eq
  simp [liveSample, Nat.shiftRight_eq_div_pow]

/-- Settles O13: its row of the map, and the sample shifted down by four bits. -/
theorem tickLiveWritesTopEightBits : Obligations.TickLiveWritesTopEightBits := by
  refine ⟨selectedBy_row 4, fun adc s hrun => ?_⟩
  rw [exec_running (.tickLive adc) hrun, ← liveSample_eq]
  rfl

/-- TICK.FILE with bytes left and a good read, written out (43_modulation.md R153, 41_playback.md R116). -/
theorem exec_tickFile_read {s : State} (hrun : s.running) (hlt : s.regs.cursor < s.regs.totalLen) {b : Byte}
    (hb : s.resource.read s.regs.cursor = some b) :
    exec (.tickFile false) s = .next
      { s with
        regs := { s.regs with duty := b, srcKind := .fileStream, cursor := s.regs.cursor + 1 }
        dutyWrites := s.dutyWrites ++ [b] } := by
  rw [exec_running (.tickFile false) hrun, effect_tickFile_read hlt, memRead_of_some hb]
  rfl

/-- Settles O15: its row of the map, and the byte the resource holds at the cursor. -/
theorem tickFileDeliversNextByte : Obligations.TickFileDeliversNextByte :=
  ⟨selectedBy_row 2, fun _ _ hrun hlt hb => exec_tickFile_read hrun hlt hb⟩

/-- Settles O16: with the stream exhausted nothing is raised, and with bytes left it is the failed read that ends it. -/
theorem tickFileEndsSession : Obligations.TickFileEndsSession := by
  intro rdfail s hrun hend
  rw [exec_running (.tickFile rdfail) hrun]
  by_cases hlt : s.regs.cursor.toNat < s.regs.totalLen.toNat
  · obtain rfl := hend.resolve_left (Nat.not_le.mpr hlt)
    rw [effect_tickFile_failed hlt, if_pos hlt]
    rfl
  · rw [effect_tickFile_exhausted hlt, if_neg hlt, List.append_nil]
    rfl

/-- A TICK.FILE that ends the session, and one that reads, with the byte read left open. -/
theorem effect_tickFile_written (rdfail : Bool) (s : State) :
    (∃ b draws, effect (.tickFile rdfail) s =
      { s with
        regs := { s.regs with duty := b, srcKind := .fileStream, cursor := s.regs.cursor + 1 }
        dutyWrites := s.dutyWrites ++ [b]
        freeDraws := draws }) ∨
    ∃ errors, (errors = s.errors ∨ errors = s.errors ++ [.streamReadFailure]) ∧
      effect (.tickFile rdfail) s =
        { s with
          regs := { s.regs with
            duty := 0, srcKind := .fileStream, active := false, streamOpen := false, justFinished := true }
          dutyWrites := s.dutyWrites ++ [0]
          errors := errors } := by
  rcases effect_tickFile_cases rdfail s with ⟨-, -, e⟩ | ⟨-, -, e⟩ | ⟨-, e⟩
  · refine .inl ⟨(s.memRead s.regs.cursor).1, (s.memRead s.regs.cursor).2.freeDraws, e.trans ?_⟩
    rcases memRead_state s s.regs.cursor with hs | ⟨-, hs⟩ <;> rw [hs] <;> rfl
  · exact .inr ⟨_, .inr rfl, e⟩
  · exact .inr ⟨_, .inl rfl, e⟩

/-- TICK.TONE with the byte left open. -/
theorem effect_tickTone_written (s : State) :
    ∃ b draws, effect .tickTone s =
      { s with
        regs := { s.regs with duty := b, srcKind := .fixedTone, phaseQ := nextPhase s.regs.phaseQ }
        dutyWrites := s.dutyWrites ++ [b]
        freeDraws := draws } := by
  cases htone : tone s.regs.phaseQ with
  | some b => exact ⟨b, s.freeDraws, effect_tickTone_of_some htone⟩
  | none => exact ⟨_, _, effect_tickTone_of_none htone⟩

/-- What a TICK puts out: no diagnostic, at most one error, one write of `duty` (43_modulation.md R157, R159). -/
theorem effect_tick_outputs {i : Instr} (hi : isTick i = true) (s : State) :
    (effect i s).trace = s.trace ∧
      ((effect i s).errors = s.errors ∨ (effect i s).errors = s.errors ++ [.streamReadFailure]) ∧
      (effect i s).dutyWrites = s.dutyWrites ++ [(effect i s).regs.duty] := by
  cases i with
  | tickFile rdfail =>
    rcases effect_tickFile_written rdfail s with ⟨b, draws, e⟩ | ⟨errors, herrors, e⟩ <;> rw [e]
    · exact ⟨rfl, .inl rfl, rfl⟩
    · exact ⟨rfl, herrors, rfl⟩
  | tickTone =>
    obtain ⟨b, draws, e⟩ := effect_tickTone_written s
    rw [e]
    exact ⟨rfl, .inl rfl, rfl⟩
  | tickLive _ | tickSilence => exact ⟨rfl, .inl rfl, rfl⟩
  | _ => cases hi

/-- Settles O17: the effect of a TICK where the block runs, nothing where it is halted. -/
theorem ticksNeverFail : Obligations.TicksNeverFail := by
  intro i s hi
  obtain ⟨t, ht⟩ := exec_total i s
  refine ⟨t, ht, ?_⟩
  rcases exec_cases ht with ⟨rfl, -⟩ | ⟨rfl, hhalted, -⟩
  · obtain ⟨htrace, herrors, hwrites⟩ := effect_tick_outputs hi s
    exact ⟨htrace, herrors, fun _ => hwrites⟩
  · exact ⟨rfl, .inl rfl, fun hrun => hrun.not_halted hhalted⟩

end Sys2Proof.Machine
end

section
/-! PROOF. START, ACKFIN and POLL written out, and the frame of every operation: what it leaves unchanged, who writes
which register, and that TICK does not see the trigger registers (10_state.md R49; 42_trigger.md R130, R131). -/

namespace Sys2Proof.Machine

/-! ### START and ACKFIN -/

/-- Settles O21: missing storage is one of the two causes of START's failure. -/
theorem startFailsWithoutStorage : Obligations.StartFailsWithoutStorage :=
  fun _ hrun hactive hstorage => exec_start_fails hrun hactive (.inr hstorage)

/-- Settles O22: START's success. -/
theorem startOpensSession : Obligations.StartOpensSession := by
  refine ⟨selectedBy_row 7, fun s hrun hactive hpresent hstorage => ?_⟩
  rw [exec_running .start hrun, effect_start_opens hactive hpresent hstorage]
  rfl

/-- Settles O23: ACKFIN for both values of `just_finished`. -/
theorem ackfinReportsOnce : Obligations.AckfinReportsOnce := by
  refine ⟨selectedBy_row 8, fun s hrun => ?_⟩
  rw [exec_running .ackfin hrun, effect_ackfin_written]

/-! ### POLL -/

theorem waitingState_eq (raw deb : Bool) : waitingState raw deb = if raw ≠ deb then .debouncing else .idle := by
  cases raw <;> cases deb <;> rfl

/-- A confirmed edge requests a start if it rises outside a session (42_trigger.md R135, R136). -/
theorem request_eq (raw active request : Bool) :
    (if raw && !active then true else request) = (request || (raw && !active)) := by
  cases raw && !active <;> simp

theorem exec_poll {s : State} (hrun : s.running) (pin : Bool) (now : Millis) :
    exec (.poll pin now) s = .next (s.withRegs (pollRegs s.params.confirmAtEqual pin now s.regs)) :=
  exec_running (.poll pin now) hrun

/-- Settles O25: its row of the map, and the first branch of POLL. -/
theorem pollRecordsRawChange : Obligations.PollRecordsRawChange := by
  refine ⟨selectedBy_row 6, fun pin now s hrun hchange => ?_⟩
  rw [exec_poll hrun, pollRegs_change hchange, waitingState_eq]
  rfl

/-- Settles O26: the second branch of POLL. -/
theorem pollConfirmsStableLevel : Obligations.PollConfirmsStableLevel := by
  intro pin now s hrun hsame hpending hstable
  rw [exec_poll hrun, pollRegs_confirm hsame hpending ((windowPassed_iff s now).mpr hstable), request_eq]
  rfl

/-- Settles O27: the third branch of POLL. -/
theorem pollOtherwiseNamesState : Obligations.PollOtherwiseNamesState := by
  intro pin now s hrun hsame hquiet
  have hwait : ¬(s.regs.rawLevel ≠ s.regs.debLevel ∧
      windowPassed s.params.confirmAtEqual now s.regs.lastChange = true) := by
    rw [windowPassed_iff s now]
    rintro ⟨hpending, hstable⟩
    exact hquiet.elim hpending fun hnot => hnot hstable
  rw [exec_poll hrun, pollRegs_wait hsame hwait, waitingState_eq]
  rfl

/-! ### Frames -/

/-- No operation but RESET changes the surroundings. -/
theorem exec_sameSurroundings {i : Instr} {s t : State} (hi : i ≠ .reset) (h : exec i s = .next t) :
    SameSurroundings s t := by
  obtain ⟨-, hcfg, hparams, hstraps, hresource⟩ := exec_fixed hi h
  exact
    { cfg := hcfg, straps := hstraps, params := hparams
      bound := by rw [hresource]; exact ⟨rfl, rfl⟩
      bytes := fun off => by rw [hresource]
      cells := by rw [hresource]
      schedule := exec_schedule h }

/-- Settles O32: both ways a TICK.FILE goes, and a halted block. -/
theorem fileTickFrame : Obligations.FileTickFrame := by
  intro rdfail s t h
  refine ⟨exec_sameSurroundings (by simp) h, ?_⟩
  rcases exec_cases h with ⟨rfl, -⟩ | ⟨rfl, -, -⟩
  · rcases effect_tickFile_written rdfail s with ⟨b, draws, e⟩ | ⟨errors, -, e⟩ <;> rw [e] <;> exact ⟨rfl, rfl⟩
  · exact ⟨rfl, rfl⟩

/-- Settles O33: the delivery of each fallback source, and a halted block. -/
theorem fallbackTickFrame : Obligations.FallbackTickFrame := by
  intro i s t hi h
  have hreset : i ≠ .reset := by rcases hi with rfl | rfl | ⟨adc, rfl⟩ <;> simp
  refine ⟨exec_sameSurroundings hreset h, ?_⟩
  rcases exec_cases h with ⟨rfl, -⟩ | ⟨rfl, -, -⟩
  · rcases hi with rfl | rfl | ⟨adc, rfl⟩
    · obtain ⟨b, draws, e⟩ := effect_tickTone_written s
      rw [e]
      exact ⟨rfl, rfl, absurd rfl, rfl⟩
    · exact ⟨rfl, rfl, fun _ => rfl, rfl⟩
    · exact ⟨rfl, rfl, fun _ => rfl, rfl⟩
  · exact ⟨rfl, rfl, fun _ => rfl, rfl⟩

/-- POLL writes the trigger registers alone (42_trigger.md R144). -/
theorem pollRegs_frame (eq pin : Bool) (now : Millis) (r : Regs) :
    pollRegs eq pin now r = withTrigger r (triggerOf (pollRegs eq pin now r)) := by
  rcases pollRegs_cases eq pin now r with ⟨-, e⟩ | ⟨-, -, -, e⟩ | ⟨-, -, e⟩ <;> rw [e] <;> rfl

/-- Settles O34: the three ways of POLL and of START, the one of ACKFIN, and a halted block. -/
theorem mainLoopFrames : Obligations.MainLoopFrames := by
  refine ⟨fun pin now s t h => ⟨exec_sameSurroundings (by simp) h, ?_⟩,
    fun s t h => ⟨exec_sameSurroundings (by simp) h, ?_⟩, fun s t h => ⟨exec_sameSurroundings (by simp) h, ?_⟩⟩ <;>
    rcases exec_cases h with ⟨rfl, -⟩ | ⟨rfl, -, -⟩
  · exact ⟨rfl, rfl, rfl, pollRegs_frame _ pin now s.regs⟩
  · exact ⟨rfl, rfl, rfl, rfl⟩
  · rcases effect_start_cases s with ⟨-, e⟩ | ⟨-, e⟩ | ⟨-, -, -, e⟩ <;> rw [e] <;> exact ⟨rfl, rfl⟩
  · exact ⟨rfl, rfl⟩
  · rw [effect_ackfin_written]
    exact ⟨rfl, rfl, rfl⟩
  · exact ⟨rfl, rfl, rfl⟩

/-- Settles O35: PWMCLK, a halted block, and RESET. -/
theorem pwmclkAndResetFrames : Obligations.PwmclkAndResetFrames := by
  refine ⟨fun s t h => ⟨exec_sameSurroundings (by simp) h, ?_⟩, fun s t h => ?_⟩
  · rcases exec_cases h with ⟨rfl, -⟩ | ⟨rfl, -, -⟩ <;> exact ⟨rfl, rfl, rfl, rfl⟩
  · rcases exec_cases h with ⟨rfl, -⟩ | ⟨-, -, hreset⟩
    · obtain ⟨hstraps, hparams, hresource, hwrites, hdraws⟩ := effect_reset_fixed s
      exact ⟨hstraps, hparams, hresource, exec_schedule h, fun off => by rw [hresource], hwrites, hdraws⟩
    · exact absurd rfl hreset

/-- Settles O36: each operation's effect, written out. -/
theorem writersOfEachRegister : Obligations.WritersOfEachRegister := by
  intro i s t h hreset
  rcases exec_cases h with ⟨rfl, -⟩ | ⟨rfl, -, -⟩
  · cases i with
    | reset => exact absurd rfl hreset
    | pwmclk => simp [effect, pwmclkRegs]
    | tickFile rdfail =>
      rcases effect_tickFile_written rdfail s with ⟨b, draws, e⟩ | ⟨errors, -, e⟩ <;> rw [e] <;> simp [isTick]
    | tickTone =>
      obtain ⟨b, draws, e⟩ := effect_tickTone_written s
      rw [e]
      simp [isTick]
    | tickLive adc => simp [effect, isTick]
    | tickSilence => simp [effect, isTick]
    | poll pin now =>
      rw [show effect (.poll pin now) s = s.withRegs (pollRegs s.params.confirmAtEqual pin now s.regs) from rfl]
      rcases pollRegs_cases s.params.confirmAtEqual pin now s.regs with ⟨-, e⟩ | ⟨-, -, -, e⟩ | ⟨-, -, e⟩ <;>
        rw [e]
      · simp
      · simp +contextual
      · simp
    | start =>
      rcases effect_start_cases s with ⟨-, e⟩ | ⟨-, e⟩ | ⟨hactive, hpresent, hstorage, e⟩ <;> rw [e]
      · simp
      · simp
      · simp [hactive, hpresent, hstorage]
    | ackfin =>
      rw [effect_ackfin_written]
      simp
    | nop => simp [effect]
  · simp

/-! ### TICK and the trigger registers -/

/-- The block with other trigger registers. -/
def State.withTrigger (s : State) (tr : TriggerRegs) : State := s.withRegs (Machine.withTrigger s.regs tr)

/-- The effect of a TICK neither reads nor writes the trigger registers (42_trigger.md R130). -/
theorem effect_tick_withTrigger {i : Instr} (hi : isTick i = true) (s : State) (tr : TriggerRegs) :
    effect i (s.withTrigger tr) = (effect i s).withTrigger tr := by
  cases i with
  | tickFile rdfail =>
    rcases effect_tickFile_cases rdfail s with ⟨hlt, rfl, e⟩ | ⟨hlt, rfl, e⟩ | ⟨hlt, e⟩
    · rw [effect_tickFile_read (s := s.withTrigger tr) hlt, e]
      cases hread : s.resource.read s.regs.cursor with
      | some b =>
        rw [memRead_of_some hread, memRead_of_some (s := s.withTrigger tr) (off := (s.withTrigger tr).regs.cursor) hread]
        rfl
      | none =>
        rw [memRead_of_none hread, memRead_of_none (s := s.withTrigger tr) (off := (s.withTrigger tr).regs.cursor) hread]
        rfl
    · rw [effect_tickFile_failed (s := s.withTrigger tr) hlt, e]
      rfl
    · rw [effect_tickFile_exhausted (s := s.withTrigger tr) hlt, e]
      rfl
  | tickTone =>
    cases htone : tone s.regs.phaseQ with
    | some b =>
      rw [effect_tickTone_of_some htone, effect_tickTone_of_some (s := s.withTrigger tr) htone]
      rfl
    | none =>
      rw [effect_tickTone_of_none htone, effect_tickTone_of_none (s := s.withTrigger tr) htone]
      rfl
  | tickLive _ | tickSilence => rfl
  | _ => cases hi

/-- Settles O37: the effect of a TICK in a running block, nothing in a halted one. -/
theorem ticksIgnoreTriggerRegisters : Obligations.TicksIgnoreTriggerRegisters := by
  intro i s t tr hi h
  show exec i (s.withTrigger tr) = .next (t.withTrigger tr)
  rcases exec_cases h with ⟨rfl, hrun | rfl⟩ | ⟨rfl, hhalted, hreset⟩
  · rw [exec_running i (s := s.withTrigger tr) hrun, effect_tick_withTrigger hi]
  · cases hi
  · exact exec_halted i (s := t.withTrigger tr) hhalted hreset

end Sys2Proof.Machine
end

section
/-! PROOF. The trigger detector over one POLL and over lists of them (42_trigger.md R138, R140), and the pass of the main
loop (30_encoding.md R87). -/

namespace Sys2Proof.Machine

/-! ### One POLL -/

/-- The transitions of `fsm` a POLL makes (42_trigger.md R138). -/
def pollTransitions : List (TriggerState × TriggerState) :=
  [(.idle, .idle), (.idle, .debouncing), (.debouncing, .debouncing), (.debouncing, .idle), (.debouncing, .confirmed),
    (.confirmed, .idle), (.confirmed, .debouncing)]

/-- From every named state a POLL that flips nothing may wait. -/
theorem waitingState_mem_pollTransitions (fsm : TriggerState) (raw deb : Bool) :
    (fsm, waitingState raw deb) ∈ pollTransitions := by
  cases fsm <;> cases raw <;> cases deb <;> decide

/-- Settles O28: the invariant names Debouncing the state in which the levels differ, and only such a state confirms. -/
theorem confirmedEnteredFromDebouncingOnly : Obligations.ConfirmedEnteredFromDebouncingOnly := by
  intro pin now s t hinv hrun h
  rw [exec_poll hrun] at h
  injection h with h
  subst h
  show (s.regs.fsm, (pollRegs s.params.confirmAtEqual pin now s.regs).fsm) ∈ pollTransitions
  rcases pollRegs_cases s.params.confirmAtEqual pin now s.regs with ⟨-, e⟩ | ⟨-, hpending, -, e⟩ | ⟨-, -, e⟩ <;> rw [e]
  · exact waitingState_mem_pollTransitions _ _ _
  · rw [hinv.fsm_names_levels.mpr hpending]
    exact List.mem_of_getElem? (i := 4) rfl
  · exact waitingState_mem_pollTransitions _ _ _

/-- A POLL that neither sees a change nor confirms, with the named state left open. -/
theorem exec_poll_wait {s : State} {pin : Bool} {now : Millis} (hrun : s.running) (hsame : (!pin) = s.regs.rawLevel)
    (hquiet : s.regs.rawLevel = s.regs.debLevel ∨ ¬Stable s now) :
    ∃ fsm, exec (.poll pin now) s = .next (s.withRegs { s.regs with fsm := fsm }) :=
  ⟨_, pollOtherwiseNamesState pin now s hrun hsame hquiet⟩

/-! ### A burst -/

/-- No time within one debounce window of the last change is past it (42_trigger.md R134). -/
theorem not_stable_of_within {s : State} {t0 time : Nat} (hfrom : t0 ≤ s.regs.lastChange.toNat)
    (hback : s.regs.lastChange.toNat ≤ time) (hto : time ≤ t0 + if s.params.confirmAtEqual then 49 else 50)
    (hrange : time < 2 ^ 32) : ¬Stable s (BitVec.ofNat 32 time) := by
  have htime : (BitVec.ofNat 32 time).toNat = time := by rw [BitVec.toNat_ofNat, Nat.mod_eq_of_lt hrange]
  rintro (hlong | ⟨hequal, hexact⟩)
  · rw [htime] at hlong
    split at hto <;> omega
  · rw [htime] at hexact
    rw [if_pos hequal] at hto
    omega

/-- A burst confirms nothing if the line was quiet before it or changed within it. -/
theorem burst_confirms_nothing (t0 : Nat) (polls : List (Bool × Nat)) (s : State) (hrun : s.running)
    (hrecent : s.regs.rawLevel = s.regs.debLevel ∨
      t0 ≤ s.regs.lastChange.toNat ∧ ∀ p ∈ polls, s.regs.lastChange.toNat ≤ p.2)
    (horder : polls.Pairwise fun a b => a.2 ≤ b.2)
    (hwithin : ∀ p ∈ polls, t0 ≤ p.2 ∧ p.2 ≤ t0 + (if s.params.confirmAtEqual then 49 else 50) ∧ p.2 < 2 ^ 32) :
    ∃ t : State, execAll (polls.map fun p => .poll p.1 (BitVec.ofNat 32 p.2)) s = .next t ∧
      t.regs.debLevel = s.regs.debLevel ∧ t.regs.startReq = s.regs.startReq := by
  induction polls generalizing s with
  | nil => exact ⟨s, rfl, rfl, rfl⟩
  | cons p polls ih =>
    obtain ⟨pin, time⟩ := p
    obtain ⟨hlater, horder⟩ := List.pairwise_cons.mp horder
    obtain ⟨hfrom, hto, hrange⟩ := hwithin _ List.mem_cons_self
    have hrest := fun q hq => hwithin q (List.mem_cons_of_mem (pin, time) hq)
    rw [List.map_cons]
    by_cases hsame : (!pin) = s.regs.rawLevel
    · have hquiet : s.regs.rawLevel = s.regs.debLevel ∨ ¬Stable s (BitVec.ofNat 32 time) :=
        hrecent.imp_right fun h => not_stable_of_within h.1 (h.2 _ List.mem_cons_self) hto hrange
      obtain ⟨fsm, hwait⟩ := exec_poll_wait hrun hsame hquiet
      rw [execAll_cons hwait]
      exact ih (s.withRegs { s.regs with fsm := fsm }) hrun (hrecent.imp_right fun h => ⟨h.1, fun q hq => h.2 q (List.mem_cons_of_mem _ hq)⟩) horder hrest
    · have htime : (BitVec.ofNat 32 time).toNat = time := by rw [BitVec.toNat_ofNat, Nat.mod_eq_of_lt hrange]
      rw [execAll_cons (pollRecordsRawChange.2 pin _ s hrun hsame)]
      exact ih _ hrun (.inr ⟨htime.symm ▸ hfrom, fun q hq => htime.symm ▸ hlater q hq⟩) horder hrest

/-- Settles O29: the line was quiet before the burst. -/
theorem burstConfirmsNothing : Obligations.BurstConfirmsNothing :=
  fun s t0 polls hrun hquiet horder hwithin => burst_confirms_nothing t0 polls s hrun (.inl hquiet) horder hwithin

/-! ### A stable level -/

/-- POLLs that see the confirmed level change neither it nor the request. -/
theorem quiet_polls_confirm_nothing (times : List Millis) (s : State) (hrun : s.running)
    (hquiet : s.regs.rawLevel = s.regs.debLevel) :
    ∃ t : State, execAll (times.map fun x => .poll (!s.regs.rawLevel) x) s = .next t ∧
      t.regs.debLevel = s.regs.debLevel ∧ t.regs.startReq = s.regs.startReq := by
  induction times generalizing s with
  | nil => exact ⟨s, rfl, rfl, rfl⟩
  | cons x times ih =>
    obtain ⟨fsm, hwait⟩ := exec_poll_wait (now := x) hrun (Bool.not_not _) (.inl hquiet)
    rw [List.map_cons, execAll_cons hwait]
    exact ih (s.withRegs { s.regs with fsm := fsm }) hrun hquiet

/-- Settles O30: the first POLL past the window confirms the level, the others change `fsm` alone. -/
theorem stableLevelConfirmedOnce : Obligations.StableLevelConfirmedOnce := by
  intro s times hrun hpending
  induction times generalizing s with
  | nil => exact ⟨s, rfl, fun ⟨x, hx, _⟩ => absurd hx List.not_mem_nil, fun _ => ⟨rfl, rfl⟩⟩
  | cons x times ih =>
    rw [List.map_cons]
    by_cases hstable : Stable s x
    · have hconfirm := pollConfirmsStableLevel (!s.regs.rawLevel) x s hrun (Bool.not_not _) hpending hstable
      rw [execAll_cons hconfirm]
      obtain ⟨t, ht, hdeb, hreq⟩ := quiet_polls_confirm_nothing times
        (s.withRegs { s.regs with
          debLevel := s.regs.rawLevel
          fsm := .confirmed
          startReq := s.regs.startReq || (s.regs.rawLevel && !s.regs.active) }) hrun rfl
      exact ⟨t, ht, fun _ => ⟨hdeb, hreq⟩, fun hnone => absurd ⟨x, List.mem_cons_self, hstable⟩ hnone⟩
    · obtain ⟨fsm, hwait⟩ := exec_poll_wait hrun (Bool.not_not _) (.inr hstable)
      rw [execAll_cons hwait]
      have hlater : (∃ y ∈ x :: times, Stable s y) ↔ ∃ y ∈ times, Stable s y := by simp [hstable]
      rw [hlater]
      exact ih (s.withRegs { s.regs with fsm := fsm }) hrun hpending

/-! ### The pass -/

/-- The strobes of a pass after its POLL, which left a request or did not. -/
def passStrobes (request : Bool) : List Strobes :=
  if request then [{ start := true }, { ackfin := true }] else [{ ackfin := true }]

/-- The operations of a pass after its POLL, which left a request or did not. -/
def passOps (request : Bool) : List Instr := if request then [.start, .ackfin] else [.ackfin]

theorem passTail_eq (p : State) : passTail p = (passStrobes p.regs.startReq).map fun x => .strobes x {} := by
  rw [passTail]
  cases p.regs.startReq <;> rfl

theorem requested_passStrobes (request : Bool) (w : Wires) :
    ((passStrobes request).flatMap fun x => requested x w {}) = passOps request := by
  cases request <;> rfl

/-- No strobe of a pass depends on the wired bits. -/
theorem passStrobes_plain : ∀ request : Bool, ∀ x ∈ passStrobes request, x.rst = false ∧ x.tick = false := by decide

/-- The strobes of a pass run its operations. -/
theorem run_passTail (p : State) (rest : List Stimulus) :
    Host.Core.run Sys2Proof.core (passStrobes p.regs.startReq).length (p.withSchedule (passTail p ++ rest)) =
      execAll (passOps p.regs.startReq) (p.withSchedule rest) := by
  have hplain := passStrobes_plain p.regs.startReq
  rw [passTail_eq, ← requested_passStrobes _ (p.wires false)]
  refine run_strobes (p.wires false) {} rest _ p (fun x hx => (hplain x hx).1) ?_ fun _ => rfl
  exact List.pairwise_of_forall_mem_list fun x hx y hy htick =>
    absurd ((hplain y hy).2.symm.trans htick) Bool.false_ne_true

/-- Whatever START does, no request is left (41_playback.md R111 to R114). -/
theorem effect_start_startReq (s : State) : (effect .start s).regs.startReq = false := by
  rcases effect_start_cases s with ⟨-, e⟩ | ⟨-, e⟩ | ⟨-, -, -, e⟩ <;> rw [e] <;> rfl

/-- ACKFIN with no request pending leaves neither a request nor a finished flag. -/
theorem exec_ackfin_clears {s : State} (hrun : s.running) (hreq : s.regs.startReq = false) :
    ∃ t, exec .ackfin s = .next t ∧ t.regs.startReq = false ∧ t.regs.justFinished = false :=
  ⟨_, exec_running .ackfin hrun, by rw [effect_ackfin_written]; exact ⟨hreq, rfl⟩⟩

/-- After the operations of a pass nothing is pending (70_reset_and_hazards.md R217). -/
theorem execAll_passOps {p : State} (hrun : p.running) :
    ∃ t, execAll (passOps p.regs.startReq) p = .next t ∧ t.regs.startReq = false ∧ t.regs.justFinished = false := by
  cases hreq : p.regs.startReq with
  | false => exact (execAll_singleton .ackfin p).symm ▸ exec_ackfin_clears hrun hreq
  | true =>
    have hstart : execAll (passOps true) p = exec .ackfin (effect .start p) :=
      (execAll_cons (exec_running .start hrun)).trans (execAll_singleton _ _)
    rw [hstart]
    exact exec_ackfin_clears ((effect_fixed .start p (by simp)).1.trans hrun) (effect_start_startReq p)

/-- Settles O31: the pass's POLL puts the rest of the pass on the schedule, which runs and leaves nothing pending. -/
theorem passAnswersEveryRequest : Obligations.PassAnswersEveryRequest := by
  intro s p pin now rest hrun hs hp
  have hschedule : p.schedule = rest := exec_schedule hp
  have hrest : p.withSchedule rest = p := by rw [← hschedule]; rfl
  have hrunp : p.running := (exec_fixed (by simp) hp).1.trans hrun
  have hlength : (if p.regs.startReq then 3 else 2) = (passStrobes p.regs.startReq).length + 1 := by
    cases p.regs.startReq <;> rfl
  have htail := run_passTail p rest
  rw [hrest] at htail
  obtain ⟨t, ht, hreq, hfinished⟩ := execAll_passOps hrunp
  refine ⟨?_, t, ht, hreq, hfinished, (execAll_schedule ht).trans hschedule⟩
  rw [hlength]
  exact (run_succ _ (step_pass hs hp)).trans htail

end Sys2Proof.Machine
end

section
/-! PROOF. The tone function is the rounded sine (40_sample_sources.md R93). A rational point close to (cos, sin) of one
phase step and within the unit circle has powers close to (cos, sin) of every phase in the first quarter: the error of a
power grows only linearly. The table is compared with those powers in integers, and the other quarters follow by
symmetry. -/

namespace Sys2Proof.Machine

/-- Powers of two points within the unit disc are as close as the points, times the exponent. -/
theorem norm_pow_sub_pow_le {z w : ℂ} (hz : ‖z‖ ≤ 1) (hw : ‖w‖ ≤ 1) (k : ℕ) : ‖z ^ k - w ^ k‖ ≤ k * ‖z - w‖ := by
  induction k with
  | zero => simp
  | succ k ih =>
    have hsplit : z ^ (k + 1) - w ^ (k + 1) = z ^ k * (z - w) + (z ^ k - w ^ k) * w := by ring
    have hzk : ‖z ^ k‖ ≤ 1 := by
      rw [norm_pow]
      exact pow_le_one₀ (norm_nonneg z) hz
    calc ‖z ^ (k + 1) - w ^ (k + 1)‖
        ≤ ‖z ^ k‖ * ‖z - w‖ + ‖z ^ k - w ^ k‖ * ‖w‖ := by
          rw [hsplit, ← norm_mul, ← norm_mul]
          exact norm_add_le _ _
      _ ≤ 1 * ‖z - w‖ + k * ‖z - w‖ * 1 := by gcongr
      _ = (k + 1 : ℕ) * ‖z - w‖ := by push_cast; ring

/-- The numerators of the powers of the rational point `(0.99950656, 0.03141075)`, over the powers of `10 ^ 8`. -/
def rotation : ℕ → ℤ × ℤ
  | 0 => (1, 0)
  | k + 1 =>
    (99950656 * (rotation k).1 - 3141075 * (rotation k).2, 99950656 * (rotation k).2 + 3141075 * (rotation k).1)

/-- The rational point as a complex number. -/
noncomputable def rotationStep : ℂ := ⟨99950656 / 10 ^ 8, 3141075 / 10 ^ 8⟩

theorem rotationStep_pow (k : ℕ) :
    rotationStep ^ k = ⟨((rotation k).1 : ℝ) / (10 ^ 8) ^ k, ((rotation k).2 : ℝ) / (10 ^ 8) ^ k⟩ := by
  induction k with
  | zero => apply Complex.ext <;> simp [rotation]
  | succ k ih =>
    rw [pow_succ, ih, pow_succ]
    apply Complex.ext
    · simp only [Complex.mul_re, rotation, rotationStep]
      push_cast
      field_simp
      ring
    · simp only [Complex.mul_im, rotation, rotationStep]
      push_cast
      field_simp
      ring

theorem norm_rotationStep_le : ‖rotationStep‖ ≤ 1 := by
  rw [Complex.norm_def, Real.sqrt_le_one]
  rw [Complex.normSq_apply, rotationStep]
  norm_num

/-- One phase step, `π / 100`, to eleven digits. -/
theorem phaseStep_bounds : 0.0314159265 < Real.pi / 100 ∧ Real.pi / 100 < 0.0314159266 := by
  constructor
  · linarith [Real.pi_gt_d20]
  · linarith [Real.pi_lt_d20]

theorem cos_phaseStep : |Real.cos (Real.pi / 100) - 99950656 / 10 ^ 8| ≤ 10 / 10 ^ 8 := by
  obtain ⟨hlo, hhi⟩ := phaseStep_bounds
  generalize Real.pi / 100 = x at hlo hhi
  have habs : |x| = x := abs_of_pos (by linarith)
  have hbound := Real.cos_bound (x := x) (by rw [habs]; linarith)
  rw [habs, abs_le] at hbound
  have hsq : 0.0314159265 ^ 2 ≤ x ^ 2 ∧ x ^ 2 ≤ 0.0314159266 ^ 2 := ⟨by gcongr, by gcongr⟩
  have hfourth : x ^ 4 ≤ 0.0314159266 ^ 4 := by gcongr
  rw [abs_le]
  norm_num at hsq hfourth ⊢
  constructor <;> linarith

theorem sin_phaseStep : |Real.sin (Real.pi / 100) - 3141075 / 10 ^ 8| ≤ 4 / 10 ^ 8 := by
  obtain ⟨hlo, hhi⟩ := phaseStep_bounds
  generalize Real.pi / 100 = x at hlo hhi
  have habs : |x| = x := abs_of_pos (by linarith)
  have hbound := Real.sin_bound (x := x) (by rw [habs]; linarith)
  rw [habs, abs_le] at hbound
  have hcube : 0.0314159265 ^ 3 ≤ x ^ 3 ∧ x ^ 3 ≤ 0.0314159266 ^ 3 := ⟨by gcongr, by gcongr⟩
  have hfifth : x ^ 5 ≤ 0.0314159266 ^ 5 := by gcongr
  rw [abs_le]
  norm_num at hcube hfifth ⊢
  constructor <;> linarith

/-- The rational point is close to (cos, sin) of one phase step. -/
theorem rotationStep_close :
    ‖(Real.cos (Real.pi / 100) + Real.sin (Real.pi / 100) * Complex.I : ℂ) - rotationStep‖ ≤ 2 / 10 ^ 7 := by
  refine (Complex.norm_le_abs_re_add_abs_im _).trans ?_
  have hcos := cos_phaseStep
  have hsin := sin_phaseStep
  simp only [rotationStep, Complex.sub_re, Complex.sub_im, Complex.add_re, Complex.add_im, Complex.mul_re,
    Complex.mul_im, Complex.ofReal_re, Complex.ofReal_im, Complex.I_re, Complex.I_im, mul_zero, mul_one, sub_zero,
    add_zero, zero_add]
  linarith

/-- The sine of the `k`-th phase and its rational approximation. -/
theorem sin_close (k : ℕ) :
    |Real.sin (k * (Real.pi / 100)) - ((rotation k).2 : ℝ) / (10 ^ 8) ^ k| ≤ (k : ℝ) * (2 / 10 ^ 7) := by
  have hunit : ‖(Real.cos (Real.pi / 100) + Real.sin (Real.pi / 100) * Complex.I : ℂ)‖ ≤ 1 := by
    rw [Complex.ofReal_cos, Complex.ofReal_sin, Complex.norm_cos_add_sin_mul_I]
  have hpow := norm_pow_sub_pow_le hunit norm_rotationStep_le k
  have hmoivre : (Real.cos (Real.pi / 100) + Real.sin (Real.pi / 100) * Complex.I : ℂ) ^ k =
      ⟨Real.cos (k * (Real.pi / 100)), Real.sin (k * (Real.pi / 100))⟩ := by
    rw [Complex.ofReal_cos, Complex.ofReal_sin, Complex.cos_add_sin_mul_I_pow, Complex.mk_eq_add_mul_I]
    push_cast
    rfl
  rw [hmoivre, rotationStep_pow] at hpow
  calc |Real.sin (k * (Real.pi / 100)) - ((rotation k).2 : ℝ) / (10 ^ 8) ^ k|
      ≤ k * ‖(Real.cos (Real.pi / 100) + Real.sin (Real.pi / 100) * Complex.I : ℂ) - rotationStep‖ :=
        (Complex.abs_im_le_norm _).trans hpow
    _ ≤ k * (2 / 10 ^ 7) := by gcongr; exact rotationStep_close

/-- The table's value against the rational approximation of `127 * sin`, with the error's bound, in integers. -/
theorem toneQuarter_check : ∀ k < 51,
    2 * (10 ^ 7 * |127 * (rotation k).2 - (toneQuarter.getD k 0 : ℕ) * (10 ^ 8) ^ k| + 254 * (k : ℤ) * (10 ^ 8) ^ k) <
      10 ^ 7 * (10 ^ 8) ^ k := by
  decide

/-- The first quarter of the table is the sine rounded to nearest (40_sample_sources.md R93). -/
theorem toneQuarter_close {k : ℕ} (hk : k ≤ 50) :
    |127 * Real.sin (k * (Real.pi / 100)) - (toneQuarter.getD k 0 : ℕ)| < 1 / 2 := by
  have hcheck : (2 * (10 ^ 7 * |127 * ((rotation k).2 : ℝ) - (toneQuarter.getD k 0 : ℕ) * (10 ^ 8) ^ k| +
      254 * k * (10 ^ 8) ^ k) : ℝ) < 10 ^ 7 * (10 ^ 8) ^ k := by
    exact_mod_cast toneQuarter_check k (by omega)
  have hscale : (0 : ℝ) < (10 ^ 8) ^ k := by positivity
  set v : ℝ := ((toneQuarter.getD k 0 : ℕ) : ℝ)
  set r : ℝ := ((rotation k).2 : ℝ) / (10 ^ 8) ^ k with hr
  have hrot : 127 * ((rotation k).2 : ℝ) - v * (10 ^ 8) ^ k = (127 * r - v) * (10 ^ 8) ^ k := by
    rw [hr]
    field_simp
  have hround : 2 * (10 ^ 7 * |127 * r - v| + 254 * k) < 10 ^ 7 := by
    refine lt_of_mul_lt_mul_right ?_ hscale.le
    rw [hrot, abs_mul, abs_of_pos hscale] at hcheck
    linarith
  have hsine : |127 * Real.sin (k * (Real.pi / 100)) - 127 * r| ≤ 127 * (k * (2 / 10 ^ 7)) := by
    rw [← mul_sub, abs_mul, abs_of_pos (by norm_num : (0 : ℝ) < 127)]
    gcongr
    exact sin_close k
  have htriangle := abs_sub_le (127 * Real.sin (k * (Real.pi / 100))) (127 * r) v
  linarith

/-! ### The four quarters -/

theorem toneQuarter_le : ∀ k < 51, toneQuarter.getD k 0 ≤ 127 := by decide

/-- A byte above the centre, against a sine in the upper half of the cycle. -/
theorem toneAbove_close {k : ℕ} {y : ℝ} (hk : k ≤ 50) (hy : y = Real.sin (k * (Real.pi / 100))) :
    |127 * y - (((BitVec.ofNat 8 (128 + toneQuarter.getD k 0)).toNat : ℝ) - 128)| < 1 / 2 := by
  have hle := toneQuarter_le k (by omega)
  rw [BitVec.toNat_ofNat, Nat.mod_eq_of_lt (by omega), Nat.cast_add, Nat.cast_ofNat, add_sub_cancel_left, hy]
  exact toneQuarter_close hk

/-- A byte below the centre, against a sine in the lower half of the cycle. -/
theorem toneBelow_close {k : ℕ} {y : ℝ} (hk : k ≤ 50) (hy : y = -Real.sin (k * (Real.pi / 100))) :
    |127 * y - (((BitVec.ofNat 8 (128 - toneQuarter.getD k 0)).toNat : ℝ) - 128)| < 1 / 2 := by
  have hle := toneQuarter_le k (by omega)
  rw [BitVec.toNat_ofNat, Nat.mod_eq_of_lt (by omega), Nat.cast_sub (by omega), Nat.cast_ofNat, hy, abs_sub_comm]
  have hflip : 128 - ((toneQuarter.getD k 0 : ℕ) : ℝ) - 128 - 127 * -Real.sin (k * (Real.pi / 100)) =
      127 * Real.sin (k * (Real.pi / 100)) - (toneQuarter.getD k 0 : ℕ) := by ring
  rw [hflip]
  exact toneQuarter_close hk

/-- The tone function over its four quarters (40_sample_sources.md R93). -/
theorem tone_quarters (q : Phase) :
    (q.toNat ≤ 50 → tone q = some (BitVec.ofNat 8 (128 + toneQuarter.getD q.toNat 0))) ∧
    (50 < q.toNat → q.toNat ≤ 100 → tone q = some (BitVec.ofNat 8 (128 + toneQuarter.getD (100 - q.toNat) 0))) ∧
    (100 < q.toNat → q.toNat ≤ 150 → tone q = some (BitVec.ofNat 8 (128 - toneQuarter.getD (q.toNat - 100) 0))) ∧
    (150 < q.toNat → q.toNat < 200 → tone q = some (BitVec.ofNat 8 (128 - toneQuarter.getD (200 - q.toNat) 0))) := by
  refine ⟨fun h => if_pos h, fun h h' => ?_, fun h h' => ?_, fun h h' => ?_⟩
  · exact (if_neg (Nat.not_le.mpr h)).trans (if_pos h')
  · have h1 : ¬q.toNat ≤ 50 := by omega
    exact (if_neg h1).trans ((if_neg (Nat.not_le.mpr h)).trans (if_pos h'))
  · have h1 : ¬q.toNat ≤ 50 := by omega
    have h2 : ¬q.toNat ≤ 100 := by omega
    exact (if_neg h1).trans ((if_neg h2).trans ((if_neg (Nat.not_le.mpr h)).trans (if_pos h')))

/-- Settles O9: the first quarter by its powers, the others by the sine's symmetries. -/
theorem toneIsRoundedSine : Obligations.ToneIsRoundedSine := by
  intro q hq
  obtain ⟨hfirst, hsecond, hthird, hfourth⟩ := tone_quarters q
  have hphase : 2 * Real.pi * (q.toNat : ℝ) / 200 = q.toNat * (Real.pi / 100) := by ring
  rw [hphase]
  by_cases h1 : q.toNat ≤ 50
  · exact ⟨_, hfirst h1, toneAbove_close h1 rfl⟩
  by_cases h2 : q.toNat ≤ 100
  · refine ⟨_, hsecond (by omega) h2, toneAbove_close (by omega) ?_⟩
    rw [Nat.cast_sub h2, ← Real.sin_pi_sub]
    congr 1
    push_cast
    ring
  by_cases h3 : q.toNat ≤ 150
  · refine ⟨_, hthird (by omega) h3, toneBelow_close (by omega) ?_⟩
    rw [Nat.cast_sub (by omega), ← Real.sin_add_pi]
    congr 1
    push_cast
    ring
  · refine ⟨_, hfourth (by omega) hq, toneBelow_close (by omega) ?_⟩
    rw [Nat.cast_sub hq.le, ← Real.sin_two_pi_sub]
    congr 1
    push_cast
    ring

end Sys2Proof.Machine
end

section
/-! PROOF. Runs of one operation: a carrier period (43_modulation.md R160 to R162) and the tone's cycle
(40_sample_sources.md R95). -/

namespace Sys2Proof.Machine

/-! ### A carrier period -/

/-- The block with the PWM counter at `k`. -/
def State.atCount (s : State) (k : Nat) : State := s.withRegs { s.regs with pwmCnt := BitVec.ofNat 8 k }

theorem atCount_of_pwmCnt {s : State} {k : Nat} (h : s.regs.pwmCnt = BitVec.ofNat 8 k) : s.atCount k = s := by
  rw [State.atCount, ← h, withRegs_self]

/-- Short of the wrap PWMCLK only counts (43_modulation.md R163). -/
theorem exec_pwmclk_counts {s : State} (hrun : s.running) {k : Nat} (hk : k < 255) :
    exec .pwmclk (s.atCount k) = .next (s.atCount (k + 1)) := by
  have hcount : (BitVec.ofNat 8 k).toNat = k := by rw [BitVec.toNat_ofNat, Nat.mod_eq_of_lt (by omega)]
  have hnext : (k + 1) % 256 = k + 1 := Nat.mod_eq_of_lt (by omega)
  rw [pwmclkCountsAndLoadsShadow.2 (s.atCount k) hrun]
  simp only [State.atCount, withRegs_regs, hcount, hnext, if_neg hk.ne]
  rfl

/-- The wrap loads the shadow. -/
theorem exec_pwmclk_wraps {s : State} (hrun : s.running) :
    exec .pwmclk (s.atCount 255) = .next ((s.withRegs { s.regs with dutyActive := s.regs.duty }).atCount 0) := by
  have hcount : (BitVec.ofNat 8 255).toNat = 255 := rfl
  rw [pwmclkCountsAndLoadsShadow.2 (s.atCount 255) hrun]
  simp only [State.atCount, withRegs_regs, hcount, if_true]
  rfl

theorem trail_cons {i : Instr} {l : List Instr} {s t : State} (h : exec i s = .next t) :
    trail (i :: l) s = s :: trail l t := by
  rw [trail, h]

/-- Within a period the counts follow one another. -/
theorem trail_pwmclk {s : State} (hrun : s.running) (n k : Nat) (h : k + n ≤ 256) :
    trail (List.replicate n .pwmclk) (s.atCount k) = (List.range' k n).map s.atCount := by
  induction n generalizing k with
  | zero => rfl
  | succ n ih =>
    rw [List.replicate_succ, List.range'_succ, List.map_cons]
    cases n with
    | zero =>
      obtain ⟨t, ht⟩ := exec_total .pwmclk (s.atCount k)
      exact trail_cons ht
    | succ n => rw [trail_cons (exec_pwmclk_counts hrun (by omega)), ih (k + 1) (by omega)]

theorem execAll_pwmclk {s : State} (hrun : s.running) (n k : Nat) (h : k + n ≤ 255) :
    execAll (List.replicate n .pwmclk) (s.atCount k) = .next (s.atCount (k + n)) := by
  induction n generalizing k with
  | zero => rfl
  | succ n ih =>
    rw [List.replicate_succ, execAll_cons (exec_pwmclk_counts hrun (by omega)), ih (k + 1) (by omega)]
    congr 2
    omega

/-- Of the first `n` numbers, those below `d` are `d` in number, or all. -/
theorem countP_lt_range (d n : Nat) : (List.range n).countP (fun k => decide (k < d)) = min n d := by
  induction n with
  | zero => simp
  | succ n ih =>
    rw [List.range_succ, List.countP_append, ih, List.countP_singleton]
    by_cases h : n < d
    · simp [h]; omega
    · simp [h]; omega

/-- At a count below 256 the output is high exactly below `duty_active` (43_modulation.md R161). -/
theorem carrierOut_atCount (s : State) {k : Nat} (hk : k < 256) :
    (s.atCount k).carrierOut = decide (k < s.regs.dutyActive.toNat) := by
  have hcount : (BitVec.ofNat 8 k).toNat = k := by rw [BitVec.toNat_ofNat, Nat.mod_eq_of_lt hk]
  rw [Bool.eq_iff_iff, carrierOut_iff, decide_eq_true_iff]
  simp only [State.atCount, withRegs_regs, hcount]

/-- Settles O7: the period's states are those of the counts 0 to 255, and the last PWMCLK wraps. -/
theorem carrierHighCountPerPeriod : Obligations.CarrierHighCountPerPeriod := by
  intro s hrun hzero
  have htrail := trail_pwmclk hrun 256 0 le_rfl
  rw [atCount_of_pwmCnt hzero, ← List.range_eq_range'] at htrail
  refine ⟨?_, ?_, ?_⟩
  · rw [htrail, List.length_map, List.length_range]
  · have hhigh : ∀ k ∈ List.range 256,
        (State.carrierOut ∘ s.atCount) k = true ↔ decide (k < s.regs.dutyActive.toNat) = true :=
      fun k hk => Bool.eq_iff_iff.mp (carrierOut_atCount s (List.mem_range.mp hk))
    rw [htrail, List.countP_map, List.countP_congr hhigh, countP_lt_range, Nat.min_eq_right s.regs.dutyActive.isLt.le]
  · have hcounts := execAll_pwmclk hrun 255 0 le_rfl
    rw [atCount_of_pwmCnt hzero] at hcounts
    rw [List.replicate_succ', execAll_append hcounts, execAll_singleton]
    refine (exec_pwmclk_wraps hrun).trans (congrArg Host.Outcome.next ?_)
    exact atCount_of_pwmCnt hzero

/-! ### The tone's cycle -/

/-- From phase 0, `n` TICK.TONE operations leave the running block at phase `5 * (n mod 40)`, the cycle written. -/
theorem execAll_tickTone {s : State} (hrun : s.running) (hzero : s.regs.phaseQ = 0) (n : Nat) :
    ∃ t : State, execAll (List.replicate n .tickTone) s = .next t ∧ t.running ∧
      t.regs.phaseQ.toNat = 5 * (n % 40) ∧
      t.dutyWrites.map some =
        s.dutyWrites.map some ++ (List.range n).map fun i => tone (BitVec.ofNat 8 (5 * (i % 40))) := by
  induction n with
  | zero => exact ⟨s, rfl, hrun, by rw [hzero]; rfl, by simp⟩
  | succ n ih =>
    obtain ⟨t, ht, hrunt, hphase, hwrites⟩ := ih
    obtain ⟨b, hb⟩ := tone_of_phase_below (q := t.regs.phaseQ) (by omega)
    have hlast : execAll (List.replicate (n + 1) .tickTone) s = exec .tickTone t := by
      rw [List.replicate_succ', execAll_append ht, execAll_singleton]
    refine ⟨_, hlast.trans (exec_tickTone_of_some hrunt hb), hrunt, ?_, ?_⟩
    · show (nextPhase t.regs.phaseQ).toNat = _
      rw [nextPhase_toNat]
      omega
    · rw [List.map_append, hwrites, List.range_succ, List.map_append, List.append_assoc]
      simp [← hphase, hb]

/-- Settles O12: the induction also keeps the block running. -/
theorem toneRepeatsEveryFortyTicks : Obligations.ToneRepeatsEveryFortyTicks := by
  intro n s hrun hzero
  obtain ⟨t, ht, -, hphase, hwrites⟩ := execAll_tickTone hrun hzero n
  exact ⟨t, ht, hphase, hwrites⟩

end Sys2Proof.Machine
end

section
/-! PROOF. A whole session replays the resource (41_playback.md R118, R123): what is kept while it plays, one strobe, any
number of them, and the tick that ends it. -/

namespace Sys2Proof.Machine

/-- The block `s` is in a session that START opened in `s₀` and has played `k` bytes of the resource. -/
structure Playing (s₀ : State) (k : Nat) (s : State) : Prop where
  running : s.running
  active : s.regs.active = true
  cursor : s.regs.cursor.toNat = k
  totalLen : s.regs.totalLen = s₀.resource.len
  resource : s.resource = s₀.resource
  dutyWrites : s.dutyWrites = s₀.dutyWrites ++ (List.range k).map (Memory.read s₀.resource.mem)

/-- A strobe that may come in a session: a single TICK without a read failure, PWMCLK, POLL, START or ACKFIN. -/
def IsSessionStrobe (x : Stimulus) : Prop :=
  ∃ o : Operands, o.rdfail = false ∧
    (x = .strobes { tick := true } o ∨ x = .strobes { pwmClk := true } o ∨ x = .strobes { poll := true } o ∨
      x = .strobes { start := true } o ∨ x = .strobes { ackfin := true } o)

theorem Playing.withSchedule {s₀ s : State} {k : Nat} (h : Playing s₀ k s) (l : List Stimulus) :
    Playing s₀ k (s.withSchedule l) := { h with }

/-- In a session no operation but TICK and RESET touches the stream or writes `duty` (10_state.md R49). -/
theorem effect_in_session {i : Instr} {s : State} (hi : isTick i = false) (hreset : i ≠ .reset)
    (hactive : s.regs.active = true) :
    (effect i s).regs.active = true ∧ (effect i s).regs.cursor = s.regs.cursor ∧
      (effect i s).regs.totalLen = s.regs.totalLen ∧ (effect i s).dutyWrites = s.dutyWrites := by
  cases i with
  | reset => exact absurd rfl hreset
  | tickFile _ | tickTone | tickLive _ | tickSilence => cases hi
  | pwmclk | nop => exact ⟨hactive, rfl, rfl, rfl⟩
  | poll pin now =>
    have hregs := pollRegs_frame s.params.confirmAtEqual pin now s.regs
    refine ⟨?_, ?_, ?_, rfl⟩ <;> simp only [effect, withRegs_regs] <;> rw [hregs]
    · exact hactive
    · rfl
    · rfl
  | start => rw [effect_start_active hactive]; exact ⟨hactive, rfl, rfl, rfl⟩
  | ackfin => rw [effect_ackfin_written]; exact ⟨hactive, rfl, rfl, rfl⟩

theorem Playing.effect {s₀ s : State} {k : Nat} (h : Playing s₀ k s) {i : Instr} (hi : isTick i = false)
    (hreset : i ≠ .reset) : Playing s₀ k (effect i s) := by
  obtain ⟨hactive, hcursor, hlen, hwrites⟩ := effect_in_session hi hreset h.active
  obtain ⟨hhalted, -, -, -, hresource⟩ := effect_fixed i s hreset
  exact
    { running := hhalted.trans h.running
      active := hactive
      cursor := hcursor ▸ h.cursor
      totalLen := hlen.trans h.totalLen
      resource := hresource.trans h.resource
      dutyWrites := hwrites.trans h.dutyWrites }

/-- A TICK with bytes left plays the next byte (41_playback.md R116). -/
theorem Playing.tick {s₀ s : State} {k : Nat} (h : Playing s₀ k s) (hpresent : s₀.resource.present = true)
    (hk : k < s₀.resource.len.toNat) :
    ∃ t, exec (.tickFile false) s = .next t ∧ Playing s₀ (k + 1) t := by
  have hlt : s.regs.cursor < s.regs.totalLen := by
    rw [BitVec.lt_def, h.cursor, h.totalLen]
    exact hk
  have hread : s.resource.read s.regs.cursor = some (Memory.read s₀.resource.mem k) := by
    rw [read_eq_some _ _ (h.resource ▸ hpresent) (by rw [h.resource, ← h.totalLen]; exact hlt), h.resource, h.cursor]
  refine ⟨_, exec_tickFile_read h.running hlt hread,
    { h with
      cursor := ?_
      dutyWrites := ?_ }⟩
  · show (s.regs.cursor + 1).toNat = k + 1
    have hcursor := h.cursor
    have hbound := s₀.resource.len.isLt
    bv_omega
  · show s.dutyWrites ++ _ = _
    rw [h.dutyWrites, List.range_succ, List.map_append, List.append_assoc]
    rfl

/-- In a session a TICK strobe requests TICK.FILE (30_encoding.md R73). -/
theorem requested_tick {w : Wires} {o : Operands} (hactive : w.active = true) (hread : o.rdfail = false) :
    requested { tick := true } w o = [.tickFile false] := by
  have harbiter : arbitrated w o = .tickFile false := by rw [arbitrated, if_pos hactive, hread]
  exact congrArg (fun i => [i]) harbiter

/-- One strobe in a session: a TICK plays a byte, and the others play none. -/
theorem Playing.step {s₀ s : State} {k : Nat} {x : Stimulus} {rest : List Stimulus} (h : Playing s₀ k s)
    (hpresent : s₀.resource.present = true) (hx : IsSessionStrobe x)
    (hk : isTickStrobe x = true → k < s₀.resource.len.toNat) (hs : s.schedule = x :: rest) :
    ∃ t, step s = .next t ∧ Playing s₀ (k + if isTickStrobe x then 1 else 0) t ∧ t.schedule = rest := by
  have hrest := h.withSchedule rest
  have hother : ∀ i st o, x = .strobes st o → requested st (s.wires st.rst) o = [i] → isTick i = false → i ≠ .reset →
      ∃ t, Machine.step s = .next t ∧ Playing s₀ k t ∧ t.schedule = rest := by
    rintro i st o rfl hrequest hi hreset
    refine ⟨_, ?_, hrest.effect hi hreset, effect_schedule i _⟩
    rw [step_strobes hs, hrequest, execAll_singleton, exec_running i hrest.running]
  obtain ⟨o, hread, rfl | rfl | rfl | rfl | rfl⟩ := hx
  · obtain ⟨t, ht, hplaying⟩ := hrest.tick hpresent (hk rfl)
    refine ⟨t, ?_, hplaying, exec_schedule ht⟩
    rw [step_strobes hs, requested_tick h.active hread, execAll_singleton, ht]
  · exact hother .pwmclk _ o rfl rfl rfl (by simp)
  · exact hother (.poll o.pin o.now) _ o rfl rfl rfl (by simp)
  · exact hother .start _ o rfl rfl rfl (by simp)
  · exact hother .ackfin _ o rfl rfl rfl (by simp)

/-- Any strobes in a session, as many TICKs among them as bytes are left or fewer. -/
theorem Playing.run {s₀ : State} (hpresent : s₀.resource.present = true) (n : Nat) (rest l : List Stimulus) {s : State}
    {k : Nat} (h : Playing s₀ k s) (hl : ∀ x ∈ l, IsSessionStrobe x)
    (hk : k + l.countP isTickStrobe ≤ s₀.resource.len.toNat) (hs : s.schedule = l ++ rest) :
    ∃ t, Host.Core.run Sys2Proof.core (l.length + n) s = Host.Core.run Sys2Proof.core n t ∧
      Playing s₀ (k + l.countP isTickStrobe) t ∧ t.schedule = rest := by
  induction l generalizing s k with
  | nil => exact ⟨s, by rw [List.length_nil, Nat.zero_add], h, hs⟩
  | cons x l ih =>
    rw [List.countP_cons] at hk
    obtain ⟨u, hu, hplaying, hschedule⟩ := h.step hpresent (hl x List.mem_cons_self) (fun htick => by
      rw [if_pos htick] at hk
      omega) hs
    obtain ⟨t, ht, hend, hlast⟩ := ih hplaying (fun y hy => hl y (List.mem_cons_of_mem x hy)) (by omega) hschedule
    refine ⟨t, ?_, ?_, hlast⟩
    · rw [List.length_cons, Nat.add_right_comm]
      exact (run_succ _ hu).trans ht
    · rw [List.countP_cons, Nat.add_comm (l.countP isTickStrobe), ← Nat.add_assoc]
      exact hend

/-- START opens the session (41_playback.md R111). -/
theorem playing_of_start {s : State} {rest : List Stimulus} {o : Operands} (hrun : s.running)
    (hactive : s.regs.active = false) (hpresent : s.resource.present = true) (hstorage : s.cfg.storageOk = true)
    (hs : s.schedule = .strobes { start := true } o :: rest) :
    ∃ t, step s = .next t ∧ Playing s 0 t ∧ t.schedule = rest := by
  have hstep : step s = exec .start (s.withSchedule rest) := (step_strobes hs).trans (execAll_singleton _ _)
  refine ⟨_, hstep.trans (startOpensSession.2 (s.withSchedule rest) hrun hactive hpresent hstorage), ?_, rfl⟩
  exact
    { running := hrun, active := rfl, cursor := rfl, totalLen := rfl, resource := rfl
      dutyWrites := (List.append_nil _).symm }

/-- Settles O18: START opens the session, the strobes play every byte, and one TICK more ends it. -/
theorem sessionReplaysResource : Obligations.SessionReplaysResource := by
  intro s l rest o₀ o₁ hrun hactive hstorage hpresent hl hticks hread hs
  obtain ⟨u, hu, hopen, hschedule⟩ := playing_of_start hrun hactive hpresent hstorage hs
  obtain ⟨v, hv, hplayed, hlast⟩ := hopen.run hpresent 1 _ l hl (by omega) hschedule
  rw [hticks, Nat.zero_add] at hplayed
  have hexhausted : v.regs.totalLen.toNat ≤ v.regs.cursor.toNat := by rw [hplayed.cursor, hplayed.totalLen]
  have hstep : step v = exec (.tickFile false) (v.withSchedule rest) := by
    rw [step_strobes hlast, requested_tick hplayed.active hread, execAll_singleton]
  refine ⟨_, (run_succ _ hu).trans (hv.trans (run_succ 0 (hstep.trans
    (tickFileEndsSession false (v.withSchedule rest) hplayed.running (.inl hexhausted))))),
    ?_, rfl, rfl, ?_, rfl, rfl⟩
  · exact congrArg (· ++ [0]) hplayed.dutyWrites
  · exact BitVec.eq_of_toNat_eq hplayed.cursor

end Sys2Proof.Machine
end
